-- ==== Sys2Proof/Word.lean ====
section
/-!
DEFINITION. The two widths of the machine: a byte and a 16-bit word (spec/00_scope.md R5, R10).
-/

namespace Sys2Proof

/-- `u8`: a register, a data byte, an operand byte (R10). -/
abbrev Byte := BitVec 8

/-- `u16`: the program counter and every address (R10). -/
abbrev Word := BitVec 16

end Sys2Proof
end

