-- ==== Sys2Proof/Syntax.lean ====
section
/-!
DEFINITION. The instructions as data: the addressing modes (spec/30_encoding.md R60), the operand forms, the
flags of P (spec/10_state.md R21), and `Instr`, one constructor per mnemonic of spec/opcode_table.json, the
rows of one mnemonic being the forms of its operand.
-/

namespace Sys2Proof

/-- The flags of P, from bit 0 to bit 7 (spec/10_state.md R21). -/
inductive Flag where
  | c | z | i | d | b | u | v | n
  deriving DecidableEq, Repr

/-- The thirteen addressing modes and `noMode`, the `NONE` of an unsupported opcode (spec/30_encoding.md R59, R60). -/
inductive Mode where
  | imp | acc | imm | zp | zpx | zpy | abs | abx | aby | ind | izx | izy | rel | noMode
  deriving DecidableEq, Repr

/-- The operand forms that have an effective address, each with the operand bytes it was written with
(spec/30_encoding.md R58): `aa` one byte, an address the word `bb : aa`. -/
inductive MemForm where
  /-- Zero Page, `$aa` (spec/40_address_resolver.md R74). -/
  | zp  (aa : Byte)
  /-- Zero Page,X, `$aa,X` (R75). -/
  | zpx (aa : Byte)
  /-- Zero Page,Y, `$aa,Y` (R76). -/
  | zpy (aa : Byte)
  /-- Absolute, `$bbaa` (R77). -/
  | abs (addr : Word)
  /-- Absolute,X, `$bbaa,X` (R78). -/
  | abx (base : Word)
  /-- Absolute,Y, `$bbaa,Y` (R79). -/
  | aby (base : Word)
  /-- Indirect, `($bbaa)` (R80). -/
  | ind (ptr : Word)
  /-- Indexed Indirect, `($aa,X)` (R81). -/
  | izx (aa : Byte)
  /-- Indirect Indexed, `($aa),Y` (R82). -/
  | izy (aa : Byte)
  deriving DecidableEq, Repr

/-- The operand of an instruction that reads one byte: an immediate (R73) or a byte of memory. -/
inductive ReadForm where
  | imm (v : Byte)
  | mem (m : MemForm)
  deriving DecidableEq, Repr

/-- The operand of a shift or rotate: the accumulator (R72) or a byte of memory. -/
inductive ShiftForm where
  | acc
  | mem (m : MemForm)
  deriving DecidableEq, Repr

def MemForm.mode : MemForm → Mode
  | .zp _  => .zp
  | .zpx _ => .zpx
  | .zpy _ => .zpy
  | .abs _ => .abs
  | .abx _ => .abx
  | .aby _ => .aby
  | .ind _ => .ind
  | .izx _ => .izx
  | .izy _ => .izy

def ReadForm.mode : ReadForm → Mode
  | .imm _ => .imm
  | .mem m => m.mode

def ShiftForm.mode : ShiftForm → Mode
  | .acc   => .acc
  | .mem m => m.mode

/-- The instruction set: the 56 mnemonics of spec/30_encoding.md R62 and the unsupported opcode (R65). -/
inductive Instr where
  -- transfers (spec/42_transfer_load_store.md R110 to R115)
  | tax | tay | txa | tya | tsx | txs
  -- loads and stores (R116 to R121)
  | lda (src : ReadForm)
  | ldx (src : ReadForm)
  | ldy (src : ReadForm)
  | sta (dst : MemForm)
  | stx (dst : MemForm)
  | sty (dst : MemForm)
  -- stack (spec/43_stack.md R130 to R133)
  | pha | php | pla | plp
  -- arithmetic (spec/44_arithmetic.md R140 to R147)
  | adc (src : ReadForm)
  | sbc (src : ReadForm)
  | inc (dst : MemForm)
  | inx | iny
  | dec (dst : MemForm)
  | dex | dey
  -- logic, bit test, shifts (spec/45_logic_shift.md R155 to R162)
  | and (src : ReadForm)
  | ora (src : ReadForm)
  | eor (src : ReadForm)
  | bit (src : MemForm)
  | asl (dst : ShiftForm)
  | lsr (dst : ShiftForm)
  | rol (dst : ShiftForm)
  | ror (dst : ShiftForm)
  -- compares (spec/46_compare_branch_jump.md R170 to R172)
  | cmp (src : ReadForm)
  | cpx (src : ReadForm)
  | cpy (src : ReadForm)
  -- branches, each with its offset byte (R174 to R181)
  | bcc (off : Byte)
  | bcs (off : Byte)
  | beq (off : Byte)
  | bmi (off : Byte)
  | bne (off : Byte)
  | bpl (off : Byte)
  | bvc (off : Byte)
  | bvs (off : Byte)
  -- jumps and subroutines (R182 to R184)
  | jmp (dst : MemForm)
  | jsr (dst : Word)
  | rts
  -- flags, no operation, break, return (spec/47_flag_ops_break.md R195 to R204)
  | clc | sec | cli | sei | clv | cld | sed
  | nop | brk | rti
  -- the 105 unsupported opcode values (spec/30_encoding.md R65, spec/60_exceptions.md R215)
  | unsupported (opcode : Byte)
  deriving DecidableEq, Repr

/-- The 57 operations the decoder selects (R59): the mnemonics, and `UNSUPPORTED`. -/
inductive Operation where
  | tax | tay | txa | tya | tsx | txs | lda | ldx | ldy | sta | stx | sty
  | pha | php | pla | plp
  | adc | sbc | inc | inx | iny | dec | dex | dey
  | and | ora | eor | bit | asl | lsr | rol | ror
  | cmp | cpx | cpy | bcc | bcs | beq | bmi | bne | bpl | bvc | bvs | jmp | jsr | rts
  | clc | sec | cli | sei | clv | cld | sed | nop | brk | rti
  | unsupported
  deriving DecidableEq, Repr

/-- The operation of an instruction. -/
def Instr.operation : Instr → Operation
  | .tax => .tax
  | .tay => .tay
  | .txa => .txa
  | .tya => .tya
  | .tsx => .tsx
  | .txs => .txs
  | .lda _ => .lda
  | .ldx _ => .ldx
  | .ldy _ => .ldy
  | .sta _ => .sta
  | .stx _ => .stx
  | .sty _ => .sty
  | .pha => .pha
  | .php => .php
  | .pla => .pla
  | .plp => .plp
  | .adc _ => .adc
  | .sbc _ => .sbc
  | .inc _ => .inc
  | .inx => .inx
  | .iny => .iny
  | .dec _ => .dec
  | .dex => .dex
  | .dey => .dey
  | .and _ => .and
  | .ora _ => .ora
  | .eor _ => .eor
  | .bit _ => .bit
  | .asl _ => .asl
  | .lsr _ => .lsr
  | .rol _ => .rol
  | .ror _ => .ror
  | .cmp _ => .cmp
  | .cpx _ => .cpx
  | .cpy _ => .cpy
  | .bcc _ => .bcc
  | .bcs _ => .bcs
  | .beq _ => .beq
  | .bmi _ => .bmi
  | .bne _ => .bne
  | .bpl _ => .bpl
  | .bvc _ => .bvc
  | .bvs _ => .bvs
  | .jmp _ => .jmp
  | .jsr _ => .jsr
  | .rts => .rts
  | .clc => .clc
  | .sec => .sec
  | .cli => .cli
  | .sei => .sei
  | .clv => .clv
  | .cld => .cld
  | .sed => .sed
  | .nop => .nop
  | .brk => .brk
  | .rti => .rti
  | .unsupported _ => .unsupported

/-- The addressing mode of an instruction (R60). -/
def Instr.mode : Instr → Mode
  | .tax => .imp
  | .tay => .imp
  | .txa => .imp
  | .tya => .imp
  | .tsx => .imp
  | .txs => .imp
  | .lda src => src.mode
  | .ldx src => src.mode
  | .ldy src => src.mode
  | .sta dst => dst.mode
  | .stx dst => dst.mode
  | .sty dst => dst.mode
  | .pha => .imp
  | .php => .imp
  | .pla => .imp
  | .plp => .imp
  | .adc src => src.mode
  | .sbc src => src.mode
  | .inc dst => dst.mode
  | .inx => .imp
  | .iny => .imp
  | .dec dst => dst.mode
  | .dex => .imp
  | .dey => .imp
  | .and src => src.mode
  | .ora src => src.mode
  | .eor src => src.mode
  | .bit src => src.mode
  | .asl dst => dst.mode
  | .lsr dst => dst.mode
  | .rol dst => dst.mode
  | .ror dst => dst.mode
  | .cmp src => src.mode
  | .cpx src => src.mode
  | .cpy src => src.mode
  | .bcc _ => .rel
  | .bcs _ => .rel
  | .beq _ => .rel
  | .bmi _ => .rel
  | .bne _ => .rel
  | .bpl _ => .rel
  | .bvc _ => .rel
  | .bvs _ => .rel
  | .jmp dst => dst.mode
  | .jsr _ => .abs
  | .rts => .imp
  | .clc => .imp
  | .sec => .imp
  | .cli => .imp
  | .sei => .imp
  | .clv => .imp
  | .cld => .imp
  | .sed => .imp
  | .nop => .imp
  | .brk => .imp
  | .rti => .imp
  | .unsupported _ => .noMode

end Sys2Proof
end

