-- ==== Sys2Proof/WellFormed.lean ====
section
/-!
DEFINITION. Which terms of `Instr` are instructions: the addressing modes each mnemonic has
(spec/30_encoding.md R62, the Encoding table of each instruction rule), and the 105 unsupported opcode values
(R65). A term outside is encoded by no bytes.
-/

namespace Sys2Proof

/-- The eight modes of LDA, ADC, SBC, AND, ORA, EOR and CMP (R116, R140, R141, R155 to R157, R170). -/
def accumulatorModes : List Mode := [.imm, .zp, .zpx, .abs, .abx, .aby, .izx, .izy]

/-- The modes of STA (R119): there is no immediate store. -/
def staModes : List Mode := [.zp, .zpx, .abs, .abx, .aby, .izx, .izy]

/-- The modes of LDX (R117): it indexes with Y. -/
def ldxModes : List Mode := [.imm, .zp, .zpy, .abs, .aby]

/-- The modes of LDY (R118): it indexes with X. -/
def ldyModes : List Mode := [.imm, .zp, .zpx, .abs, .abx]

/-- The modes of STX (R120). -/
def stxModes : List Mode := [.zp, .zpy, .abs]

/-- The modes of STY (R121). -/
def styModes : List Mode := [.zp, .zpx, .abs]

/-- The modes of INC and DEC (R142, R145). -/
def incDecModes : List Mode := [.zp, .zpx, .abs, .abx]

/-- The modes of ASL, LSR, ROL and ROR (R159 to R162). -/
def shiftModes : List Mode := [.acc, .zp, .zpx, .abs, .abx]

/-- The modes of BIT (R158). -/
def bitModes : List Mode := [.zp, .abs]

/-- The modes of CPX and CPY (R171, R172). -/
def indexCompareModes : List Mode := [.imm, .zp, .abs]

/-- The modes of JMP (R182). -/
def jmpModes : List Mode := [.abs, .ind]

/-- The 105 unsupported opcode values, as R65 lists them. -/
def unsupportedOpcodes : List Byte :=
  [0x02, 0x03, 0x04, 0x07, 0x0B, 0x0C, 0x0F, 0x12, 0x13, 0x14, 0x17, 0x1A, 0x1B, 0x1C, 0x1F, 0x22, 0x23, 0x27] ++
  [0x2B, 0x2F, 0x32, 0x33, 0x34, 0x37, 0x3A, 0x3B, 0x3C, 0x3F, 0x42, 0x43, 0x44, 0x47, 0x4B, 0x4F, 0x52, 0x53] ++
  [0x54, 0x57, 0x5A, 0x5B, 0x5C, 0x5F, 0x62, 0x63, 0x64, 0x67, 0x6B, 0x6F, 0x72, 0x73, 0x74, 0x77, 0x7A, 0x7B] ++
  [0x7C, 0x7F, 0x80, 0x82, 0x83, 0x87, 0x89, 0x8B, 0x8F, 0x92, 0x93, 0x97, 0x9B, 0x9C, 0x9E, 0x9F, 0xA3, 0xA7] ++
  [0xAB, 0xAF, 0xB2, 0xB3, 0xB7, 0xBB, 0xBF, 0xC2, 0xC3, 0xC7, 0xCB, 0xCF, 0xD2, 0xD3, 0xD4, 0xD7, 0xDA, 0xDB] ++
  [0xDC, 0xDF, 0xE2, 0xE3, 0xE7, 0xEB, 0xEF, 0xF2, 0xF3, 0xF4, 0xF7, 0xFA, 0xFB, 0xFC, 0xFF]

/-- The modes a mnemonic has in R62 (the unsupported opcode's check is on its value, not its mode). -/
def Operation.modes : Operation → List Mode
  | .lda | .adc | .sbc | .and | .ora | .eor | .cmp => accumulatorModes
  | .ldx => ldxModes
  | .ldy => ldyModes
  | .sta => staModes
  | .stx => stxModes
  | .sty => styModes
  | .inc | .dec => incDecModes
  | .asl | .lsr | .rol | .ror => shiftModes
  | .bit => bitModes
  | .cpx | .cpy => indexCompareModes
  | .jmp => jmpModes
  | .jsr => [.abs]
  | .bcc | .bcs | .beq | .bmi | .bne | .bpl | .bvc | .bvs => [.rel]
  | .tax | .tay | .txa | .tya | .tsx | .txs | .pha | .php | .pla | .plp | .inx | .iny | .dex | .dey | .rts => [.imp]
  | .clc | .sec | .cli | .sei | .clv | .cld | .sed | .nop | .brk | .rti => [.imp]
  | .unsupported => [.noMode]

/-- An instruction is well formed when R62 has a cell for its mnemonic and mode, and an unsupported opcode when
its value is one of R65's. -/
def Instr.wellFormed : Instr → Bool
  | .unsupported b => unsupportedOpcodes.contains b
  | i => i.operation.modes.contains i.mode

end Sys2Proof
end

