-- ==== Sys2Proof/Decode.lean ====
section
/-!
DEFINITION. The instruction_decoder (spec/30_encoding.md): the opcode map R62, the cycle table R63, the flag
masks R64, the instruction a sequence of bytes decodes to, and the encoder, written from R62's second listing.
The byte-order and extension helpers of spec/00_scope.md R10 stand here too.
-/

namespace Sys2Proof

/-! ## Bytes and words (spec/00_scope.md R10, spec/20_memory.md R39) -/

/-- `hi : lo`. -/
def joinBytes (hi lo : Byte) : Word := hi ++ lo

/-- `v[7:0]`. -/
def lowByte (w : Word) : Byte := w.setWidth 8

/-- `v[15:8]`, the page number of an address. -/
def highByte (w : Word) : Byte := (w >>> 8).setWidth 8

/-- `zext_16`. -/
def zeroExtend16 (v : Byte) : Word := v.setWidth 16

/-- `sext_16`. -/
def signExtend16 (v : Byte) : Word := v.signExtend 16

/-! ## The decoder's tables (R59, R61) -/

/-- Row 0x of R62. -/
def opcodeRow0 : List (Operation × Mode) :=
  [(.brk, .imp), (.ora, .izx), (.unsupported, .noMode), (.unsupported, .noMode),
   (.unsupported, .noMode), (.ora, .zp), (.asl, .zp), (.unsupported, .noMode),
   (.php, .imp), (.ora, .imm), (.asl, .acc), (.unsupported, .noMode),
   (.unsupported, .noMode), (.ora, .abs), (.asl, .abs), (.unsupported, .noMode)]

/-- Row 1x of R62. -/
def opcodeRow1 : List (Operation × Mode) :=
  [(.bpl, .rel), (.ora, .izy), (.unsupported, .noMode), (.unsupported, .noMode),
   (.unsupported, .noMode), (.ora, .zpx), (.asl, .zpx), (.unsupported, .noMode),
   (.clc, .imp), (.ora, .aby), (.unsupported, .noMode), (.unsupported, .noMode),
   (.unsupported, .noMode), (.ora, .abx), (.asl, .abx), (.unsupported, .noMode)]

/-- Row 2x of R62. -/
def opcodeRow2 : List (Operation × Mode) :=
  [(.jsr, .abs), (.and, .izx), (.unsupported, .noMode), (.unsupported, .noMode),
   (.bit, .zp), (.and, .zp), (.rol, .zp), (.unsupported, .noMode),
   (.plp, .imp), (.and, .imm), (.rol, .acc), (.unsupported, .noMode),
   (.bit, .abs), (.and, .abs), (.rol, .abs), (.unsupported, .noMode)]

/-- Row 3x of R62. -/
def opcodeRow3 : List (Operation × Mode) :=
  [(.bmi, .rel), (.and, .izy), (.unsupported, .noMode), (.unsupported, .noMode),
   (.unsupported, .noMode), (.and, .zpx), (.rol, .zpx), (.unsupported, .noMode),
   (.sec, .imp), (.and, .aby), (.unsupported, .noMode), (.unsupported, .noMode),
   (.unsupported, .noMode), (.and, .abx), (.rol, .abx), (.unsupported, .noMode)]

/-- Row 4x of R62. -/
def opcodeRow4 : List (Operation × Mode) :=
  [(.rti, .imp), (.eor, .izx), (.unsupported, .noMode), (.unsupported, .noMode),
   (.unsupported, .noMode), (.eor, .zp), (.lsr, .zp), (.unsupported, .noMode),
   (.pha, .imp), (.eor, .imm), (.lsr, .acc), (.unsupported, .noMode),
   (.jmp, .abs), (.eor, .abs), (.lsr, .abs), (.unsupported, .noMode)]

/-- Row 5x of R62. -/
def opcodeRow5 : List (Operation × Mode) :=
  [(.bvc, .rel), (.eor, .izy), (.unsupported, .noMode), (.unsupported, .noMode),
   (.unsupported, .noMode), (.eor, .zpx), (.lsr, .zpx), (.unsupported, .noMode),
   (.cli, .imp), (.eor, .aby), (.unsupported, .noMode), (.unsupported, .noMode),
   (.unsupported, .noMode), (.eor, .abx), (.lsr, .abx), (.unsupported, .noMode)]

/-- Row 6x of R62. -/
def opcodeRow6 : List (Operation × Mode) :=
  [(.rts, .imp), (.adc, .izx), (.unsupported, .noMode), (.unsupported, .noMode),
   (.unsupported, .noMode), (.adc, .zp), (.ror, .zp), (.unsupported, .noMode),
   (.pla, .imp), (.adc, .imm), (.ror, .acc), (.unsupported, .noMode),
   (.jmp, .ind), (.adc, .abs), (.ror, .abs), (.unsupported, .noMode)]

/-- Row 7x of R62. -/
def opcodeRow7 : List (Operation × Mode) :=
  [(.bvs, .rel), (.adc, .izy), (.unsupported, .noMode), (.unsupported, .noMode),
   (.unsupported, .noMode), (.adc, .zpx), (.ror, .zpx), (.unsupported, .noMode),
   (.sei, .imp), (.adc, .aby), (.unsupported, .noMode), (.unsupported, .noMode),
   (.unsupported, .noMode), (.adc, .abx), (.ror, .abx), (.unsupported, .noMode)]

/-- Row 8x of R62. -/
def opcodeRow8 : List (Operation × Mode) :=
  [(.unsupported, .noMode), (.sta, .izx), (.unsupported, .noMode), (.unsupported, .noMode),
   (.sty, .zp), (.sta, .zp), (.stx, .zp), (.unsupported, .noMode),
   (.dey, .imp), (.unsupported, .noMode), (.txa, .imp), (.unsupported, .noMode),
   (.sty, .abs), (.sta, .abs), (.stx, .abs), (.unsupported, .noMode)]

/-- Row 9x of R62. -/
def opcodeRow9 : List (Operation × Mode) :=
  [(.bcc, .rel), (.sta, .izy), (.unsupported, .noMode), (.unsupported, .noMode),
   (.sty, .zpx), (.sta, .zpx), (.stx, .zpy), (.unsupported, .noMode),
   (.tya, .imp), (.sta, .aby), (.txs, .imp), (.unsupported, .noMode),
   (.unsupported, .noMode), (.sta, .abx), (.unsupported, .noMode), (.unsupported, .noMode)]

/-- Row Ax of R62. -/
def opcodeRowA : List (Operation × Mode) :=
  [(.ldy, .imm), (.lda, .izx), (.ldx, .imm), (.unsupported, .noMode),
   (.ldy, .zp), (.lda, .zp), (.ldx, .zp), (.unsupported, .noMode),
   (.tay, .imp), (.lda, .imm), (.tax, .imp), (.unsupported, .noMode),
   (.ldy, .abs), (.lda, .abs), (.ldx, .abs), (.unsupported, .noMode)]

/-- Row Bx of R62. -/
def opcodeRowB : List (Operation × Mode) :=
  [(.bcs, .rel), (.lda, .izy), (.unsupported, .noMode), (.unsupported, .noMode),
   (.ldy, .zpx), (.lda, .zpx), (.ldx, .zpy), (.unsupported, .noMode),
   (.clv, .imp), (.lda, .aby), (.tsx, .imp), (.unsupported, .noMode),
   (.ldy, .abx), (.lda, .abx), (.ldx, .aby), (.unsupported, .noMode)]

/-- Row Cx of R62. -/
def opcodeRowC : List (Operation × Mode) :=
  [(.cpy, .imm), (.cmp, .izx), (.unsupported, .noMode), (.unsupported, .noMode),
   (.cpy, .zp), (.cmp, .zp), (.dec, .zp), (.unsupported, .noMode),
   (.iny, .imp), (.cmp, .imm), (.dex, .imp), (.unsupported, .noMode),
   (.cpy, .abs), (.cmp, .abs), (.dec, .abs), (.unsupported, .noMode)]

/-- Row Dx of R62. -/
def opcodeRowD : List (Operation × Mode) :=
  [(.bne, .rel), (.cmp, .izy), (.unsupported, .noMode), (.unsupported, .noMode),
   (.unsupported, .noMode), (.cmp, .zpx), (.dec, .zpx), (.unsupported, .noMode),
   (.cld, .imp), (.cmp, .aby), (.unsupported, .noMode), (.unsupported, .noMode),
   (.unsupported, .noMode), (.cmp, .abx), (.dec, .abx), (.unsupported, .noMode)]

/-- Row Ex of R62. -/
def opcodeRowE : List (Operation × Mode) :=
  [(.cpx, .imm), (.sbc, .izx), (.unsupported, .noMode), (.unsupported, .noMode),
   (.cpx, .zp), (.sbc, .zp), (.inc, .zp), (.unsupported, .noMode),
   (.inx, .imp), (.sbc, .imm), (.nop, .imp), (.unsupported, .noMode),
   (.cpx, .abs), (.sbc, .abs), (.inc, .abs), (.unsupported, .noMode)]

/-- Row Fx of R62. -/
def opcodeRowF : List (Operation × Mode) :=
  [(.beq, .rel), (.sbc, .izy), (.unsupported, .noMode), (.unsupported, .noMode),
   (.unsupported, .noMode), (.sbc, .zpx), (.inc, .zpx), (.unsupported, .noMode),
   (.sed, .imp), (.sbc, .aby), (.unsupported, .noMode), (.unsupported, .noMode),
   (.unsupported, .noMode), (.sbc, .abx), (.inc, .abx), (.unsupported, .noMode)]

/-- The opcode map R62, one list per high nibble. -/
def opcodeMap : List (List (Operation × Mode)) :=
  [opcodeRow0, opcodeRow1, opcodeRow2, opcodeRow3, opcodeRow4, opcodeRow5, opcodeRow6, opcodeRow7,
   opcodeRow8, opcodeRow9, opcodeRowA, opcodeRowB, opcodeRowC, opcodeRowD, opcodeRowE, opcodeRowF]

/-- The cell of R62 that an opcode byte names. -/
def opcodeEntry (opcode : Byte) : Operation × Mode :=
  ((opcodeMap.getD (opcode.toNat / 16) []).getD (opcode.toNat % 16) (.unsupported, .noMode))

/-- `operation` of R59. -/
def operationOf (opcode : Byte) : Operation := (opcodeEntry opcode).1

/-- `mode` of R59. -/
def modeOf (opcode : Byte) : Mode := (opcodeEntry opcode).2

/-- The base cycle counts of R63; 0 stands where the table has none. -/
def cycleTable : List (List Nat) :=
  [
   [7, 6, 0, 0, 0, 3, 5, 0, 3, 2, 2, 0, 0, 4, 6, 0],
   [2, 5, 0, 0, 0, 4, 6, 0, 2, 4, 0, 0, 0, 4, 7, 0],
   [6, 6, 0, 0, 3, 3, 5, 0, 4, 2, 2, 0, 4, 4, 6, 0],
   [2, 5, 0, 0, 0, 4, 6, 0, 2, 4, 0, 0, 0, 4, 7, 0],
   [6, 6, 0, 0, 0, 3, 5, 0, 3, 2, 2, 0, 3, 4, 6, 0],
   [2, 5, 0, 0, 0, 4, 6, 0, 2, 4, 0, 0, 0, 4, 7, 0],
   [6, 6, 0, 0, 0, 3, 5, 0, 4, 2, 2, 0, 5, 4, 6, 0],
   [2, 5, 0, 0, 0, 4, 6, 0, 2, 4, 0, 0, 0, 4, 7, 0],
   [0, 6, 0, 0, 3, 3, 3, 0, 2, 0, 2, 0, 4, 4, 4, 0],
   [2, 6, 0, 0, 4, 4, 4, 0, 2, 5, 2, 0, 0, 5, 0, 0],
   [2, 6, 2, 0, 3, 3, 3, 0, 2, 2, 2, 0, 4, 4, 4, 0],
   [2, 5, 0, 0, 4, 4, 4, 0, 2, 4, 2, 0, 4, 4, 4, 0],
   [2, 6, 0, 0, 3, 3, 5, 0, 2, 2, 2, 0, 4, 4, 6, 0],
   [2, 5, 0, 0, 0, 4, 6, 0, 2, 4, 0, 0, 0, 4, 7, 0],
   [2, 6, 0, 0, 3, 3, 5, 0, 2, 2, 2, 0, 4, 4, 6, 0],
   [2, 5, 0, 0, 0, 4, 6, 0, 2, 4, 0, 0, 0, 4, 7, 0]]

/-- `base_cycles` of R59. -/
def baseCycles (opcode : Byte) : Nat :=
  (cycleTable.getD (opcode.toNat / 16) []).getD (opcode.toNat % 16) 0

/-- The 23 opcodes that R63 marks with `+`. -/
def sensitiveOpcodes : List Byte :=
  [0x1D, 0x19, 0x11, 0x3D, 0x39, 0x31, 0x5D, 0x59, 0x51, 0x7D, 0x79, 0x71] ++
  [0xBD, 0xB9, 0xB1, 0xBE, 0xBC, 0xDD, 0xD9, 0xD1, 0xFD, 0xF9, 0xF1]

/-- `sensitive` of R59: the opcode pays the page-crossing cycle of spec/40_address_resolver.md R84. -/
def sensitive (opcode : Byte) : Bool := sensitiveOpcodes.contains opcode

/-- `flag_mask` of R59, by R64: the flags an operation may write. `on` is `BRK_VECTORING`, with which BRK writes
I too; PLP and RTI load all but B and the unused bit. -/
def Operation.flagMask (on : Bool) : Operation → List Flag
  | .lda | .ldx | .ldy | .tax | .tay | .txa | .tya | .tsx | .pla => [.n, .z]
  | .and | .ora | .eor | .inc | .inx | .iny | .dec | .dex | .dey => [.n, .z]
  | .adc | .sbc => [.n, .v, .z, .c]
  | .asl | .lsr | .rol | .ror | .cmp | .cpx | .cpy => [.n, .z, .c]
  | .bit => [.n, .v, .z]
  | .clc | .sec => [.c]
  | .cli | .sei => [.i]
  | .cld | .sed => [.d]
  | .clv => [.v]
  | .brk => if on then [.b, .i] else [.b]
  | .plp | .rti => [.n, .v, .d, .i, .z, .c]
  | .sta | .stx | .sty | .txs | .pha | .php | .jmp | .jsr | .rts | .nop => []
  | .bcc | .bcs | .beq | .bmi | .bne | .bpl | .bvc | .bvs => []
  | .unsupported => []

/-! ## Formats (R56, R57) -/

/-- How many operand bytes follow the opcode byte (R57, R60). -/
def Mode.operandBytes : Mode → Nat
  | .imp | .acc | .noMode => 0
  | .imm | .zp | .zpx | .zpy | .izx | .izy | .rel => 1
  | .abs | .abx | .aby | .ind => 2

/-! ## Decoding -/

/-- The form with an effective address that a mode and its operand bytes make (R58). The last line is for
modes that no opcode of R62 pairs with such an operand. -/
def memForm (mode : Mode) (aa bb : Byte) : MemForm :=
  match mode with
  | .zp  => .zp aa
  | .zpx => .zpx aa
  | .zpy => .zpy aa
  | .abs => .abs (joinBytes bb aa)
  | .abx => .abx (joinBytes bb aa)
  | .aby => .aby (joinBytes bb aa)
  | .ind => .ind (joinBytes bb aa)
  | .izx => .izx aa
  | .izy => .izy aa
  | .imp | .acc | .imm | .rel | .noMode => .zp aa

/-- The operand of a reading instruction. -/
def readForm (mode : Mode) (aa bb : Byte) : ReadForm :=
  if mode = .imm then .imm aa else .mem (memForm mode aa bb)

/-- The operand of a shift or rotate. -/
def shiftForm (mode : Mode) (aa bb : Byte) : ShiftForm :=
  if mode = .acc then .acc else .mem (memForm mode aa bb)

/-- The instruction of an operation, a mode and the operand bytes (those the mode does not have are ignored). -/
def Operation.build (opcode : Byte) (mode : Mode) (aa bb : Byte) : Operation → Instr
  | .tax => .tax
  | .tay => .tay
  | .txa => .txa
  | .tya => .tya
  | .tsx => .tsx
  | .txs => .txs
  | .lda => .lda (readForm mode aa bb)
  | .ldx => .ldx (readForm mode aa bb)
  | .ldy => .ldy (readForm mode aa bb)
  | .sta => .sta (memForm mode aa bb)
  | .stx => .stx (memForm mode aa bb)
  | .sty => .sty (memForm mode aa bb)
  | .pha => .pha
  | .php => .php
  | .pla => .pla
  | .plp => .plp
  | .adc => .adc (readForm mode aa bb)
  | .sbc => .sbc (readForm mode aa bb)
  | .inc => .inc (memForm mode aa bb)
  | .inx => .inx
  | .iny => .iny
  | .dec => .dec (memForm mode aa bb)
  | .dex => .dex
  | .dey => .dey
  | .and => .and (readForm mode aa bb)
  | .ora => .ora (readForm mode aa bb)
  | .eor => .eor (readForm mode aa bb)
  | .bit => .bit (memForm mode aa bb)
  | .asl => .asl (shiftForm mode aa bb)
  | .lsr => .lsr (shiftForm mode aa bb)
  | .rol => .rol (shiftForm mode aa bb)
  | .ror => .ror (shiftForm mode aa bb)
  | .cmp => .cmp (readForm mode aa bb)
  | .cpx => .cpx (readForm mode aa bb)
  | .cpy => .cpy (readForm mode aa bb)
  | .bcc => .bcc aa
  | .bcs => .bcs aa
  | .beq => .beq aa
  | .bmi => .bmi aa
  | .bne => .bne aa
  | .bpl => .bpl aa
  | .bvc => .bvc aa
  | .bvs => .bvs aa
  | .jmp => .jmp (memForm mode aa bb)
  | .jsr => .jsr (joinBytes bb aa)
  | .rts => .rts
  | .clc => .clc
  | .sec => .sec
  | .cli => .cli
  | .sei => .sei
  | .clv => .clv
  | .cld => .cld
  | .sed => .sed
  | .nop => .nop
  | .brk => .brk
  | .rti => .rti
  | .unsupported => .unsupported opcode

/-- The instruction of an opcode byte and its operand bytes: total on all 256 values (R59, R66). -/
def assemble (opcode aa bb : Byte) : Instr :=
  (operationOf opcode).build opcode (modeOf opcode) aa bb

/-- Why a byte sequence is no instruction. -/
inductive DecodeError where
  /-- There is no opcode byte. -/
  | noBytes
  /-- The bytes end before the operand bytes of this opcode. -/
  | missingOperand (opcode : Byte)
  deriving DecidableEq, Repr

/-- What a decoding attempt answers. -/
inductive Decoded where
  | ok (i : Instr) (rest : List Byte)
  | rejected (e : DecodeError)
  deriving DecidableEq, Repr

/-- Decode the first instruction of a byte sequence, and give the bytes after it (R56, R57, R59). -/
def decode : List Byte → Decoded
  | [] => .rejected .noBytes
  | opcode :: rest =>
    match (modeOf opcode).operandBytes, rest with
    | 0, rest => .ok (assemble opcode 0 0) rest
    | 1, aa :: rest => .ok (assemble opcode aa 0) rest
    | 2, aa :: bb :: rest => .ok (assemble opcode aa bb) rest
    | _, _ => .rejected (.missingOperand opcode)

/-! ## Encoding, from R62's listing by mnemonic -/

/-- The opcodes of each mnemonic, by mode, as R62's second table lists them. -/
def Operation.encodings : Operation → List (Mode × Byte)
  | .tax => [(.imp, 0xAA)]
  | .tay => [(.imp, 0xA8)]
  | .txa => [(.imp, 0x8A)]
  | .tya => [(.imp, 0x98)]
  | .tsx => [(.imp, 0xBA)]
  | .txs => [(.imp, 0x9A)]
  | .lda => [(.imm, 0xA9), (.zp, 0xA5), (.zpx, 0xB5), (.abs, 0xAD), (.abx, 0xBD), (.aby, 0xB9), (.izx, 0xA1), (.izy, 0xB1)]
  | .ldx => [(.imm, 0xA2), (.zp, 0xA6), (.zpy, 0xB6), (.abs, 0xAE), (.aby, 0xBE)]
  | .ldy => [(.imm, 0xA0), (.zp, 0xA4), (.zpx, 0xB4), (.abs, 0xAC), (.abx, 0xBC)]
  | .sta => [(.zp, 0x85), (.zpx, 0x95), (.abs, 0x8D), (.abx, 0x9D), (.aby, 0x99), (.izx, 0x81), (.izy, 0x91)]
  | .stx => [(.zp, 0x86), (.zpy, 0x96), (.abs, 0x8E)]
  | .sty => [(.zp, 0x84), (.zpx, 0x94), (.abs, 0x8C)]
  | .pha => [(.imp, 0x48)]
  | .php => [(.imp, 0x08)]
  | .pla => [(.imp, 0x68)]
  | .plp => [(.imp, 0x28)]
  | .adc => [(.imm, 0x69), (.zp, 0x65), (.zpx, 0x75), (.abs, 0x6D), (.abx, 0x7D), (.aby, 0x79), (.izx, 0x61), (.izy, 0x71)]
  | .sbc => [(.imm, 0xE9), (.zp, 0xE5), (.zpx, 0xF5), (.abs, 0xED), (.abx, 0xFD), (.aby, 0xF9), (.izx, 0xE1), (.izy, 0xF1)]
  | .inc => [(.zp, 0xE6), (.zpx, 0xF6), (.abs, 0xEE), (.abx, 0xFE)]
  | .inx => [(.imp, 0xE8)]
  | .iny => [(.imp, 0xC8)]
  | .dec => [(.zp, 0xC6), (.zpx, 0xD6), (.abs, 0xCE), (.abx, 0xDE)]
  | .dex => [(.imp, 0xCA)]
  | .dey => [(.imp, 0x88)]
  | .and => [(.imm, 0x29), (.zp, 0x25), (.zpx, 0x35), (.abs, 0x2D), (.abx, 0x3D), (.aby, 0x39), (.izx, 0x21), (.izy, 0x31)]
  | .ora => [(.imm, 0x09), (.zp, 0x05), (.zpx, 0x15), (.abs, 0x0D), (.abx, 0x1D), (.aby, 0x19), (.izx, 0x01), (.izy, 0x11)]
  | .eor => [(.imm, 0x49), (.zp, 0x45), (.zpx, 0x55), (.abs, 0x4D), (.abx, 0x5D), (.aby, 0x59), (.izx, 0x41), (.izy, 0x51)]
  | .bit => [(.zp, 0x24), (.abs, 0x2C)]
  | .asl => [(.acc, 0x0A), (.zp, 0x06), (.zpx, 0x16), (.abs, 0x0E), (.abx, 0x1E)]
  | .lsr => [(.acc, 0x4A), (.zp, 0x46), (.zpx, 0x56), (.abs, 0x4E), (.abx, 0x5E)]
  | .rol => [(.acc, 0x2A), (.zp, 0x26), (.zpx, 0x36), (.abs, 0x2E), (.abx, 0x3E)]
  | .ror => [(.acc, 0x6A), (.zp, 0x66), (.zpx, 0x76), (.abs, 0x6E), (.abx, 0x7E)]
  | .cmp => [(.imm, 0xC9), (.zp, 0xC5), (.zpx, 0xD5), (.abs, 0xCD), (.abx, 0xDD), (.aby, 0xD9), (.izx, 0xC1), (.izy, 0xD1)]
  | .cpx => [(.imm, 0xE0), (.zp, 0xE4), (.abs, 0xEC)]
  | .cpy => [(.imm, 0xC0), (.zp, 0xC4), (.abs, 0xCC)]
  | .bcc => [(.rel, 0x90)]
  | .bcs => [(.rel, 0xB0)]
  | .beq => [(.rel, 0xF0)]
  | .bmi => [(.rel, 0x30)]
  | .bne => [(.rel, 0xD0)]
  | .bpl => [(.rel, 0x10)]
  | .bvc => [(.rel, 0x50)]
  | .bvs => [(.rel, 0x70)]
  | .jmp => [(.abs, 0x4C), (.ind, 0x6C)]
  | .jsr => [(.abs, 0x20)]
  | .rts => [(.imp, 0x60)]
  | .clc => [(.imp, 0x18)]
  | .sec => [(.imp, 0x38)]
  | .cli => [(.imp, 0x58)]
  | .sei => [(.imp, 0x78)]
  | .clv => [(.imp, 0xB8)]
  | .cld => [(.imp, 0xD8)]
  | .sed => [(.imp, 0xF8)]
  | .nop => [(.imp, 0xEA)]
  | .brk => [(.imp, 0x00)]
  | .rti => [(.imp, 0x40)]
  | .unsupported => []

/-- The opcode byte of an instruction, if R62 has a cell for it (R68: at most one). -/
def Instr.opcode : Instr → Option Byte
  | .unsupported b => if unsupportedOpcodes.contains b then some b else none
  | i => i.operation.encodings.lookup i.mode

/-- The operand bytes of a form, low byte first (R57). -/
def MemForm.bytes : MemForm → List Byte
  | .zp aa | .zpx aa | .zpy aa | .izx aa | .izy aa => [aa]
  | .abs w | .abx w | .aby w | .ind w => [lowByte w, highByte w]

def ReadForm.bytes : ReadForm → List Byte
  | .imm v => [v]
  | .mem m => m.bytes

def ShiftForm.bytes : ShiftForm → List Byte
  | .acc => []
  | .mem m => m.bytes

/-- The operand bytes of an instruction (R57, R58). -/
def Instr.operandBytes : Instr → List Byte
  | .tax => []
  | .tay => []
  | .txa => []
  | .tya => []
  | .tsx => []
  | .txs => []
  | .lda src => src.bytes
  | .ldx src => src.bytes
  | .ldy src => src.bytes
  | .sta dst => dst.bytes
  | .stx dst => dst.bytes
  | .sty dst => dst.bytes
  | .pha => []
  | .php => []
  | .pla => []
  | .plp => []
  | .adc src => src.bytes
  | .sbc src => src.bytes
  | .inc dst => dst.bytes
  | .inx => []
  | .iny => []
  | .dec dst => dst.bytes
  | .dex => []
  | .dey => []
  | .and src => src.bytes
  | .ora src => src.bytes
  | .eor src => src.bytes
  | .bit src => src.bytes
  | .asl dst => dst.bytes
  | .lsr dst => dst.bytes
  | .rol dst => dst.bytes
  | .ror dst => dst.bytes
  | .cmp src => src.bytes
  | .cpx src => src.bytes
  | .cpy src => src.bytes
  | .bcc off => [off]
  | .bcs off => [off]
  | .beq off => [off]
  | .bmi off => [off]
  | .bne off => [off]
  | .bpl off => [off]
  | .bvc off => [off]
  | .bvs off => [off]
  | .jmp dst => dst.bytes
  | .jsr dst => [lowByte dst, highByte dst]
  | .rts => []
  | .clc => []
  | .sec => []
  | .cli => []
  | .sei => []
  | .clv => []
  | .cld => []
  | .sed => []
  | .nop => []
  | .brk => []
  | .rti => []
  | .unsupported _ => []

/-- The bytes of a well-formed instruction; none for a term that is not one. -/
def encode (i : Instr) : List Byte :=
  match i.opcode with
  | some b => b :: i.operandBytes
  | none => []

/-! ## The opcode table's words -/

/-- The first three bytes of a word numbered as spec/opcode_table.json numbers it, every bit from `nbits` up
being 0: byte 0 is the opcode, the lowest eight bits. -/
def tableBytes (nbits w : Nat) : List Byte :=
  [BitVec.ofNat 8 (w % 2 ^ nbits), BitVec.ofNat 8 (w % 2 ^ nbits / 256), BitVec.ofNat 8 (w % 2 ^ nbits / 65536)]

/-- The instruction the decoder reads from such a word. -/
def decodeTableWord (nbits w : Nat) : Option Instr :=
  match decode (tableBytes nbits w) with
  | .ok i _ => some i
  | .rejected _ => none

end Sys2Proof
end

