-- ==== Sys2Proof/Config.lean ====
section
/-!
DEFINITION. What an instance of the core fixes and the spec makes a parameter (spec/00_scope.md R5,
spec/92_eei_decisions.md section 2), the environment's address map (spec/20_memory.md R43), and the free
values. A `Params` and an `AddressMap` are plain data held in State, so a statement about every state is a
statement about every value of the parameters.
-/

namespace Sys2Proof.Config

/-- `JMP_IND_WRAP` (spec/40_address_resolver.md R80): where the high pointer byte of `JMP (ind)` lies. -/
inductive JmpIndWrap where
  | page
  | linear
  deriving DecidableEq, Repr

/-- The parameters of the core (R5). No step writes one. -/
structure Params where
  /-- `BRK_VECTORING`: `true` is `on` (spec/47_flag_ops_break.md R203). -/
  brkVectoring : Bool
  /-- `JMP_IND_WRAP` (R80). -/
  jmpIndWrap   : JmpIndWrap
  /-- `STACK_PAGE`, the high byte of every stack address (spec/20_memory.md R44). -/
  stackPage    : Byte
  resetA       : Byte
  resetX       : Byte
  resetY       : Byte
  resetS       : Byte
  resetP       : Byte
  /-- `RESET_VECTOR`, the address of the low byte of the reset PC (spec/70_reset_and_hazards.md R240). -/
  resetVector  : Word
  /-- `BRK_VECTOR`, used only with `BRK_VECTORING = on` (R203). -/
  brkVector    : Word
  deriving DecidableEq, Repr

/-- The decided values of R5 (spec/92_eei_decisions.md D2, D5, D6, D7, D9). -/
def decided : Params where
  brkVectoring := false
  jmpIndWrap   := .page
  stackPage    := 0x01
  resetA       := 0x00
  resetX       := 0x00
  resetY       := 0x00
  resetS       := 0xFD
  resetP       := 0x34
  resetVector  := 0xFFFC
  brkVector    := 0xFFFE

/-- How an address answers a `BusRead` (spec/20_memory.md R36, R43; spec/93_implementation_defined.md U5 to U7). -/
inductive ReadLaw where
  /-- Storage: the byte its cell holds. -/
  | stored
  /-- `ok` with any byte, a fresh one per read: the I/O window's law. -/
  | anyValue
  /-- `error`: no buffer backs the address. -/
  | error
  /-- Nothing is known: `ok` with any byte, or `error`. -/
  | anyAnswer
  deriving DecidableEq, Repr

/-- What a `BusWrite` to an address does (R43, R52; spec/92_eei_decisions.md D27: stored, dropped or error). -/
inductive WriteLaw where
  | store
  /-- `ok`, and no cell changes: read-only storage that drops the write, or a device that takes it. -/
  | discard
  | error
  /-- Nothing is known of the answer; no cell changes. -/
  | anyAnswer
  deriving DecidableEq, Repr

/-- The two laws of an address. -/
structure Law where
  onRead  : ReadLaw
  onWrite : WriteLaw
  deriving DecidableEq, Repr

/-- A window of the cartridge range, both ends included (R43). -/
structure Window where
  first : Nat
  last  : Nat
  law   : Law
  deriving DecidableEq, Repr

/-- The environment's address map (R43): internal RAM below `ramEnd`, the I/O window below `ioEnd`, the
cartridge's windows above; a cartridge address in no window is unbacked. The I/O window's law is open too: by
default it answers any byte and takes every write (R36, R43). -/
structure AddressMap where
  ramEnd    : Nat
  ioEnd     : Nat
  ioLaw     : Law := { onRead := .anyValue, onWrite := .discard }
  cartridge : List Window
  deriving DecidableEq, Repr

/-- The constraint on the two open boundaries (R43, spec/92_eei_decisions.md D16). -/
abbrev AddressMap.wf (m : AddressMap) : Prop :=
  0x0800 ≤ m.ramEnd ∧ m.ramEnd ≤ m.ioEnd ∧ m.ioEnd ≤ 0x10000

/-- DESIGN CHOICE (log entry 2): the map of `State.reset`: the smallest RAM, no I/O window, and one window of
plain storage over the rest, so that every address reads what was last written there. -/
def flatMap : AddressMap where
  ramEnd    := 0x0800
  ioEnd     := 0x0800
  cartridge := [{ first := 0x0800, last := 0xFFFF, law := { onRead := .stored, onWrite := .store } }]

/-- DESIGN CHOICE (log entry 1): what a storage cell that nothing has written reads as. -/
def unlistedByte : Byte := 0x00

/-- FREE VALUE (log entry 5): the byte an `anyValue` address answers to the `n`-th draw of the oracle. -/
opaque anyByte (n : Nat) (addr : Word) : Byte

/-- FREE VALUE (log entry 5): whether an `anyAnswer` address answers the `n`-th draw with `ok`. -/
opaque answersOk (n : Nat) (addr : Word) : Bool

/-- FREE VALUE (log entry 10): what `DebugRead` answers for A, X, Y, S or P, numbered 0 to 4, while it is unspecified. -/
opaque unspecifiedByte (reg : Nat) : Byte

/-- FREE VALUE (log entry 10): what `DebugRead` answers for PC while it is unspecified. -/
opaque unspecifiedPc : Word

end Sys2Proof.Config
end

