-- ==== Sys2Proof/Machine/State.lean ====
section
/-!
DEFINITION. The state as plain data: the register file (spec/10_state.md R13), which of its registers are
specified (R31), the parameters of the instance (spec/00_scope.md R5), the environment behind the bus
(spec/20_memory.md R36, R43), and the outputs of the ports (spec/00_scope.md R6); the fault records, the
refusals, and the state after reset.
-/

namespace Sys2Proof.Machine

/-- The direction of a bus transaction, as a fault record names it (spec/60_exceptions.md R216). -/
inductive Dir where
  | read
  | write
  deriving DecidableEq, Repr

/-- The fault records of R216. Both are safe: each is what the spec has `Step()` answer. A fault does not end the
machine (R218): the state it leaves is a next state whose `answer` holds the record, so neither `exec` nor `step`
gives the outcome `fault`. -/
inductive Fault where
  /-- Raised by an unsupported opcode (R215): `Sys2Proof.Machine.execUnsupported`. Safe. -/
  | unsupportedOpcode (opcode : Byte)
  /-- Raised by `memRead` and `memWrite` when the bus answers `error` (R219). Safe. -/
  | unbackedMemoryAccess (addr : Word) (dir : Dir)
  deriving DecidableEq, Repr

/-- Why a request is given no meaning. -/
inductive Refusal where
  /-- An instruction whose arm of `exec` has no meaning yet; raised by `exec` only. Safe. -/
  | notModelled (mnemonic : String)
  /-- Raised by a meaning on a term of `Instr` that no opcode of spec/30_encoding.md R62 and R65 encodes; the
  decoder yields none, so no `step` gives it. Safe. -/
  | noSuchForm
  /-- Raised by `step` while a register is unspecified (spec/10_state.md R31, spec/70_reset_and_hazards.md R242).
  Safe: the spec refuses the `Step()`. -/
  | registersUnspecified
  deriving DecidableEq, Repr

/-- One transaction of the bus port (spec/20_memory.md R36): what was asked and what was answered. -/
inductive BusTxn where
  | read (addr : Word) (data : Byte)
  | readError (addr : Word)
  | write (addr : Word) (data : Byte)
  | writeError (addr : Word) (data : Byte)
  deriving DecidableEq, Repr

/-- What the last `Reset()` or `Step()` answered (spec/00_scope.md R6, spec/60_exceptions.md R216). -/
inductive Answer where
  /-- None has been issued. -/
  | nothing
  /-- `Reset()` answered `ok`. -/
  | resetOk
  /-- `Step()` answered a cycle count. -/
  | cycles (n : Nat)
  /-- `Step()` or `Reset()` answered a fault record. -/
  | fault (f : Fault)
  deriving DecidableEq, Repr

/-- Which registers are specified (spec/10_state.md R31). -/
structure Specified where
  a  : Bool
  x  : Bool
  y  : Bool
  sp : Bool
  p  : Bool
  pc : Bool
  deriving DecidableEq, Repr

/-- The machine. -/
structure State where
  /-- A, the accumulator (spec/10_state.md R14). -/
  a  : Byte
  /-- X, an index register (R15). -/
  x  : Byte
  /-- Y, an index register (R16). -/
  y  : Byte
  /-- S, the stack pointer (R17). -/
  sp : Byte
  /-- P, the status flags (R21). -/
  p  : Byte
  /-- PC, the program counter (R18). -/
  pc : Word
  /-- The specified registers (R31). -/
  specified : Specified
  /-- The parameters of this instance (spec/00_scope.md R5); nothing writes them (log entry 4). -/
  cfg : Config.Params
  /-- The environment's address map (spec/20_memory.md R43); nothing writes it (log entry 2). -/
  map : Config.AddressMap
  /-- The bytes of the environment's storage, by cell: strictly rising cells, none holding the unlisted byte
  (spec/20_memory.md R36). -/
  mem : List Host.Cell
  /-- MODEL'S OWN: how many answers have been drawn from the bus oracle (log entry 5). -/
  oracleCount : Nat
  /-- MODEL'S OWN: the transactions of the last `Step()` or `Reset()`, oldest first (R42; log entry 6). -/
  trace : List BusTxn
  /-- MODEL'S OWN: the answer of the last `Step()` or `Reset()` (log entry 6). -/
  answer : Answer
  deriving DecidableEq, Repr

/-- Every register specified. -/
def Specified.every : Specified := ⟨true, true, true, true, true, true⟩

/-- No register specified: the core before its first `Reset()` (R31). -/
def Specified.nothing : Specified := ⟨false, false, false, false, false, false⟩

/-- The criterion of R31: a `Step()` is refused unless this holds. -/
def Specified.all (r : Specified) : Bool := r.a && r.x && r.y && r.sp && r.p && r.pc

/-- The machine right after a `Reset()` that answered `ok` (spec/10_state.md R30, spec/70_reset_and_hazards.md
R240, R241), in an environment whose memory lists nothing: PC is the word read from `RESET_VECTOR`, both bytes
of which read as the unlisted byte (log entry 3). -/
def State.reset : State where
  a  := 0x00
  x  := 0x00
  y  := 0x00
  sp := 0xFD
  p  := 0x34
  pc := 0x0000
  specified := Specified.every
  cfg := Config.decided
  map := Config.flatMap
  mem := []
  oracleCount := 0
  trace := [.read 0xFFFC 0x00, .read 0xFFFD 0x00]
  answer := .resetOk

end Sys2Proof.Machine
end

