-- ==== Sys2Proof/Machine/Flags.lean ====
section
/-!
DEFINITION. The flag_register_engine and the alu (spec/41_flag_engine_alu.md): every function maps the old P, the
operands and the result to the new P, writing only the flags of the operation's mask.
-/

namespace Sys2Proof.Machine

/-! ## The bits of P (spec/10_state.md R21) -/

/-- The bit number of a flag. -/
def flagBit : Flag → Nat
  | .c => 0 | .z => 1 | .i => 2 | .d => 3 | .b => 4 | .u => 5 | .v => 6 | .n => 7

/-- The mask of a flag. -/
def flagMaskOf : Flag → Byte
  | .c => 0x01 | .z => 0x02 | .i => 0x04 | .d => 0x08 | .b => 0x10 | .u => 0x20 | .v => 0x40 | .n => 0x80

/-- The flag `f` of a status byte. -/
def getFlag (f : Flag) (p : Byte) : Bool := p.getLsbD (flagBit f)

/-- `P.f <- val`: one bit is written, the other seven stay (spec/00_scope.md R10). -/
def putFlag (f : Flag) (val : Bool) (p : Byte) : Byte :=
  if val then p ||| flagMaskOf f else p &&& ~~~flagMaskOf f

/-- The flag `f` of P. -/
def State.flag (s : State) (f : Flag) : Bool := getFlag f s.p

/-! ## The alu -/

/-- `Add9` (spec/41_flag_engine_alu.md R98). -/
def add9 (a m : Byte) (cin : Bool) : BitVec 9 := a.setWidth 9 + m.setWidth 9 + (BitVec.ofBool cin).setWidth 9

/-- `ShiftLeft` (R101): the shifted byte and the bit shifted out. -/
def shiftLeft (v : Byte) (cin : Bool) : Byte × Bool :=
  ((v <<< 1) ||| (BitVec.ofBool cin).setWidth 8, v.getLsbD 7)

/-- `ShiftRight` (R101). -/
def shiftRight (v : Byte) (cin : Bool) : Byte × Bool :=
  ((v >>> 1) ||| ((BitVec.ofBool cin).setWidth 8 <<< 7), v.getLsbD 0)

/-- `(v + 1) mod 256` (R102). -/
def increment (v : Byte) : Byte := v + 1

/-- `(v + 255) mod 256` (R102). -/
def decrement (v : Byte) : Byte := v + 255

/-- The one's complement of an operand, as SBC feeds it to the adder (R99). -/
def complement (m : Byte) : Byte := m ^^^ 0xFF

/-! ## The flag engine -/

/-- `SetNZ(v)` (R91). -/
def setNZ (v p : Byte) : Byte := putFlag .z (v = 0) (putFlag .n (v.getLsbD 7) p)

/-- The signed-overflow condition (R93). -/
def overflows (first second result : Byte) : Bool := (~~~(first ^^^ second) &&& (first ^^^ result) &&& 0x80) ≠ 0

/-- The flags of an addition (R93 to R95): V by the formula, C from bit 8 of the sum, N and Z from its low byte. -/
def addFlags (first second : Byte) (sum : BitVec 9) (p : Byte) : Byte :=
  setNZ (sum.setWidth 8) (putFlag .c (sum.getLsbD 8) (putFlag .v (overflows first second (sum.setWidth 8)) p))

/-- `CompareFlags(r, m)` (R103). -/
def compareFlags (r m p : Byte) : Byte :=
  putFlag .n ((r - m).getLsbD 7) (putFlag .z (r - m = 0) (putFlag .c (m ≤ r) p))

/-- The flags of the bit test (R92 to R94): Z of the conjunction, N and V from the operand. -/
def bitFlags (a m p : Byte) : Byte :=
  putFlag .v (m.getLsbD 6) (putFlag .n (m.getLsbD 7) (putFlag .z (a &&& m = 0) p))

/-- The flags of a shift or rotate (R95, R104): C is the bit shifted out, N and Z are of the result. -/
def shiftFlags (result : Byte) (cout : Bool) (p : Byte) : Byte := setNZ result (putFlag .c cout p)

end Sys2Proof.Machine
end

