-- ==== Sys2Proof/Machine/Ops.lean ====
section
/-!
DEFINITION. The named operations on the state: one writer per register, storage, the two memory primitives
(spec/20_memory.md R37), the stack (R45, R46), raising a fault (spec/60_exceptions.md R217), the trap entry of BRK
and the return of RTI (R223, R224), and how an instruction ends (spec/30_encoding.md R55 step 6).
-/

namespace Sys2Proof.Machine

/-! ## Register writes (spec/00_scope.md R10) -/

def State.setA (s : State) (v : Byte) : State := { s with a := v }

def State.setX (s : State) (v : Byte) : State := { s with x := v }

def State.setY (s : State) (v : Byte) : State := { s with y := v }

def State.setSp (s : State) (v : Byte) : State := { s with sp := v }

def State.setP (s : State) (v : Byte) : State := { s with p := v }

def State.setPc (s : State) (v : Word) : State := { s with pc := v }

def State.setMem (s : State) (m : List Host.Cell) : State := { s with mem := m }

def State.setSpecified (s : State) (r : Specified) : State := { s with specified := r }

/-- One more answer has been drawn from the bus oracle. -/
def State.drawn (s : State) : State := { s with oracleCount := s.oracleCount + 1 }

/-- The bus port has made one more transaction (spec/20_memory.md R47). -/
def State.note (s : State) (t : BusTxn) : State := { s with trace := s.trace ++ [t] }

/-- A new request of the host begins: its transactions are counted from here. -/
def State.beginRequest (s : State) : State := { s with trace := [] }

/-- The request is answered. -/
def State.answered (s : State) (r : Answer) : State := { s with answer := r }

/-! ## Storage: a list of cells in canonical form -/

/-- What a cell holds. -/
def cellRead : List Host.Cell → Nat → Byte
  | [], _ => Config.unlistedByte
  | (k, v) :: rest, a => if k = a then v else cellRead rest a

/-- The list with a cell put at its place in the rising order; the cell is not in it yet. -/
def cellInsert : List Host.Cell → Nat → Byte → List Host.Cell
  | [], a, v => [(a, v)]
  | (k, w) :: rest, a, v => if a < k then (a, v) :: (k, w) :: rest else (k, w) :: cellInsert rest a v

/-- The list without a cell's entry. -/
def cellErase (m : List Host.Cell) (a : Nat) : List Host.Cell := m.filter (fun c => c.1 ≠ a)

/-- The list after a byte is written to a cell: writing the unlisted byte removes the entry. -/
def cellWrite (m : List Host.Cell) (a : Nat) (v : Byte) : List Host.Cell :=
  if v = Config.unlistedByte then cellErase m a else cellInsert (cellErase m a) a v

/-- The canonical form: cells of the 16-bit space, strictly rising, none holding the unlisted byte. -/
abbrev memWf (m : List Host.Cell) : Prop :=
  m.Pairwise (fun c d => c.1 < d.1) ∧ ∀ c ∈ m, c.1 < 0x10000 ∧ c.2 ≠ Config.unlistedByte

/-- The storage cell of an address: internal RAM is a 2048-byte array indexed by the low 11 bits (spec/20_memory.md
R43); every other address has a cell of its own. -/
def cellOf (map : Config.AddressMap) (addr : Word) : Nat :=
  if addr.toNat < map.ramEnd then addr.toNat % 2048 else addr.toNat

/-- The law of an address (R43): internal RAM is plain storage that never fails (spec/60_exceptions.md R219), the
I/O window has the map's law for it, a cartridge address has the law of its window and is unbacked if it has
none. -/
def lawAt (map : Config.AddressMap) (addr : Word) : Config.Law :=
  if addr.toNat < map.ramEnd then { onRead := .stored, onWrite := .store }
  else if addr.toNat < map.ioEnd then map.ioLaw
  else match map.cartridge.find? (fun w => w.first ≤ addr.toNat && addr.toNat ≤ w.last) with
    | some w => w.law
    | none => { onRead := .error, onWrite := .error }

/-- The byte the storage holds for an address (no bus transaction). -/
def State.byteAt (s : State) (addr : Word) : Byte := cellRead s.mem (cellOf s.map addr)

/-- The state after the storage takes a byte for an address. -/
def State.putByte (s : State) (addr : Word) (v : Byte) : State :=
  s.setMem (cellWrite s.mem (cellOf s.map addr) v)

/-! ## Running part of an instruction -/

/-- What a part of a `Step()` comes to: a value and the state reached, or a raised fault and the state it leaves
(R217: everything done before the raise stays done). -/
inductive Run (α : Type) where
  | done (v : α) (s : State)
  | raised (f : Fault) (s : State)
  deriving DecidableEq, Repr

/-- One part, and the next one if nothing was raised (R10, "Order"; R217). -/
def Run.bind {α β : Type} (r : Run α) (k : α → State → Run β) : Run β :=
  match r with
  | .done v s => k v s
  | .raised f s => .raised f s

/-! ## The memory primitives (spec/20_memory.md R37) -/

/-- `MemRead(addr, 1)`. -/
def memRead (addr : Word) (s : State) : Run Byte :=
  match (lawAt s.map addr).onRead with
  | .stored => .done (s.byteAt addr) (s.note (.read addr (s.byteAt addr)))
  | .anyValue =>
    .done (Config.anyByte s.oracleCount addr) (s.drawn.note (.read addr (Config.anyByte s.oracleCount addr)))
  | .error => .raised (.unbackedMemoryAccess addr .read) (s.note (.readError addr))
  | .anyAnswer =>
    if Config.answersOk s.oracleCount addr then
      .done (Config.anyByte s.oracleCount addr) (s.drawn.note (.read addr (Config.anyByte s.oracleCount addr)))
    else .raised (.unbackedMemoryAccess addr .read) (s.drawn.note (.readError addr))

/-- `MemWrite(addr, 1, v)`. -/
def memWrite (addr : Word) (v : Byte) (s : State) : Run Unit :=
  match (lawAt s.map addr).onWrite with
  | .store => .done () ((s.putByte addr v).note (.write addr v))
  | .discard => .done () (s.note (.write addr v))
  | .error => .raised (.unbackedMemoryAccess addr .write) (s.note (.writeError addr v))
  | .anyAnswer =>
    if Config.answersOk s.oracleCount addr then .done () (s.drawn.note (.write addr v))
    else .raised (.unbackedMemoryAccess addr .write) (s.drawn.note (.writeError addr v))

/-- Two reads, the low byte first, as one little-endian word (R38, R39). -/
def memReadWord (lo hi : Word) (s : State) : Run Word :=
  (memRead lo s).bind fun l s => (memRead hi s).bind fun h s => .done (joinBytes h l) s

/-! ## The stack (spec/20_memory.md R44 to R46) -/

/-- `STACK_PAGE : S`. -/
def State.stackAddr (s : State) : Word := joinBytes s.cfg.stackPage s.sp

/-- `Push(v)`: write, then decrement. -/
def push (v : Byte) (s : State) : Run Unit :=
  (memWrite s.stackAddr v s).bind fun _ s => .done () (s.setSp (s.sp - 1))

/-- `Pull()`: increment, then read. -/
def pull (s : State) : Run Byte :=
  memRead (s.setSp (s.sp + 1)).stackAddr (s.setSp (s.sp + 1))

/-- A word on the stack, high byte first (spec/46_compare_branch_jump.md R183). -/
def pushWord (w : Word) (s : State) : Run Unit :=
  (push (highByte w) s).bind fun _ s => push (lowByte w) s

/-- A word from the stack, low byte first (R184). -/
def pullWord (s : State) : Run Word :=
  (pull s).bind fun lo s => (pull s).bind fun hi s => .done (joinBytes hi lo) s

/-! ## The status byte on the stack (spec/43_stack.md R131, R133) -/

/-- The byte that PHP and BRK push: P with bits 4 and 5 set. -/
def pushedStatus (p : Byte) : Byte := p ||| 0x30

/-- P after PLP or RTI pulled `v`: N V D I Z C from `v`, B kept, bit 5 set. -/
def pulledStatus (v p : Byte) : Byte := (v &&& 0xCF) ||| (p &&& 0x10) ||| 0x20

/-! ## Faults, the trap entry and the trap return -/

/-- `raise F` (spec/60_exceptions.md R217, R218): the `Step()` is answered with the fault record, the state stays as
the raise left it, and the core is ready to fetch the next instruction. -/
def raiseFault (f : Fault) (s : State) : Host.Outcome State Fault Refusal := .next (s.answered (.fault f))

/-- The trap entry of BRK with `BRK_VECTORING = on` (R223, spec/47_flag_ops_break.md R203): PC + 1 and P go to the
stack, B and I are set, PC comes from `BRK_VECTOR`. PC already lies past the opcode. -/
def enterTrap (s : State) : Run Unit :=
  (pushWord (s.pc + 1) s).bind fun _ s =>
  (push (pushedStatus (putFlag .b true s.p)) (s.setP (putFlag .b true s.p))).bind fun _ s =>
  (memReadWord s.cfg.brkVector (s.cfg.brkVector + 1) (s.setP (putFlag .i true s.p))).bind fun w s =>
  .done () (s.setPc w)

/-- The trap return (R224, spec/47_flag_ops_break.md R204): P, then PC, from the stack; PC is not adjusted. -/
def returnFromTrap (s : State) : Run Unit :=
  (pull s).bind fun v s =>
  (pullWord (s.setP (pulledStatus v s.p))).bind fun w s =>
  .done () (s.setPc w)

/-! ## How an instruction ends (spec/30_encoding.md R55) -/

/-- Step 6: the answer is the base count plus the extra cycles the instruction came to; a raise answers its fault
record and no count (spec/70_reset_and_hazards.md R248, R250). -/
def conclude (base : Nat) : Run Nat → Host.Outcome State Fault Refusal
  | .done extra s => .next (s.answered (.cycles (base + extra)))
  | .raised f s => raiseFault f s

/-- An instruction with the body that its rule gives it: the body is told whether the opcode is sensitive to page
crossing, and comes to the extra cycles. A term that no opcode encodes has no meaning (log entry 9). -/
def runInstr (i : Instr) (body : Bool → State → Run Nat) (s : State) : Host.Outcome State Fault Refusal :=
  match i.opcode with
  | some b => conclude (baseCycles b) (body (sensitive b) s)
  | none => .refused .noSuchForm

end Sys2Proof.Machine
end

