-- ==== Sys2Proof/Machine/Operands.lean ====
section
/-!
DEFINITION. The address_resolver (spec/40_address_resolver.md) on operand bytes already fetched, and the five uses
an instruction makes of an effective address (R87), each a body for `runInstr`.
-/

namespace Sys2Proof.Machine

/-! ## Effective addresses -/

/-- The page-crossing condition of R84: adding the index changed the high byte. -/
def crosses (base ea : Word) : Bool := highByte ea ≠ highByte base

/-- Where `JMP (ind)` reads the high byte of its target (R80). -/
def pointerHigh (wrap : Config.JmpIndWrap) (ptr : Word) : Word :=
  match wrap with
  | .page => joinBytes (highByte ptr) (lowByte ptr + 1)
  | .linear => ptr + 1

/-- `Resolve(mode, sensitive)` (R70, R74 to R82): the effective address and whether the extra cycle is due. The
operand bytes stand in the form, and PC is past them (log entry 8). -/
def resolve (m : MemForm) (sensitive : Bool) (s : State) : Run (Word × Bool) :=
  match m with
  | .zp aa => .done (zeroExtend16 aa, false) s
  | .zpx aa => .done (zeroExtend16 (aa + s.x), false) s
  | .zpy aa => .done (zeroExtend16 (aa + s.y), false) s
  | .abs addr => .done (addr, false) s
  | .abx base =>
    .done (base + zeroExtend16 s.x, sensitive && crosses base (base + zeroExtend16 s.x)) s
  | .aby base =>
    .done (base + zeroExtend16 s.y, sensitive && crosses base (base + zeroExtend16 s.y)) s
  | .ind ptr =>
    (memReadWord ptr (pointerHigh s.cfg.jmpIndWrap ptr) s).bind fun w s => .done (w, false) s
  | .izx aa =>
    (memReadWord (zeroExtend16 (aa + s.x)) (zeroExtend16 (aa + s.x + 1)) s).bind fun w s => .done (w, false) s
  | .izy aa =>
    (memReadWord (zeroExtend16 aa) (zeroExtend16 (aa + 1)) s).bind fun base s =>
    .done (base + zeroExtend16 s.y, sensitive && crosses base (base + zeroExtend16 s.y)) s

/-- The operand byte of a reading instruction and the extra cycle: an immediate was read with the instruction
(R73, log entry 8), any other operand is read at its effective address. -/
def operandValue (src : ReadForm) (sensitive : Bool) (s : State) : Run (Byte × Bool) :=
  match src with
  | .imm v => .done (v, false) s
  | .mem m =>
    (resolve m sensitive s).bind fun r s => (memRead r.1 s).bind fun v s => .done (v, r.2) s

/-- The branch target (R83): PC is the address of the next instruction. -/
def branchTarget (next : Word) (off : Byte) : Word := next + signExtend16 off

/-! ## Bodies (R87) -/

/-- An instruction that touches registers only. -/
def registerBody (eff : State → State) (_ : Bool) (s : State) : Run Nat := .done 0 (eff s)

/-- An instruction that works through the stack or jumps, with no extra cycle. -/
def plainBody (act : State → Run Unit) (_ : Bool) (s : State) : Run Nat := (act s).bind fun _ s => .done 0 s

/-- "read operand": the effect is given the byte read. -/
def readBody (src : ReadForm) (eff : Byte → State → State) (sensitive : Bool) (s : State) : Run Nat :=
  (operandValue src sensitive s).bind fun r s => .done r.2.toNat (eff r.1 s)

/-- "write result": the byte is written at the effective address, which is not read. -/
def storeBody (dst : MemForm) (v : Byte) (sensitive : Bool) (s : State) : Run Nat :=
  (resolve dst sensitive s).bind fun r s => (memWrite r.1 v s).bind fun _ s => .done r.2.toNat s

/-- "read-modify-write": one read, one write of the same address, then the flags. `f` gives the new byte and `g`
the new P, from the old byte and the old P. -/
def modifyBody (dst : MemForm) (f g : Byte → Byte → Byte) (sensitive : Bool) (s : State) : Run Nat :=
  (resolve dst sensitive s).bind fun r s => (memRead r.1 s).bind fun m s =>
  (memWrite r.1 (f m s.p) s).bind fun _ s => .done r.2.toNat (s.setP (g m s.p))

/-- The skeleton of the shifts and rotates (spec/45_logic_shift.md, section 2): `f` is the shift of a byte under
the old P. -/
def shiftBody (dst : ShiftForm) (f : Byte → Byte → Byte × Bool) (sensitive : Bool) (s : State) : Run Nat :=
  match dst with
  | .acc => .done 0 ((s.setA (f s.a s.p).1).setP (shiftFlags (f s.a s.p).1 (f s.a s.p).2 s.p))
  | .mem m =>
    modifyBody m (fun v p => (f v p).1) (fun v p => shiftFlags (f v p).1 (f v p).2 p) sensitive s

/-- `Branch(cond)` (spec/46_compare_branch_jump.md R173). -/
def branchBody (cond : Bool) (off : Byte) (_ : Bool) (s : State) : Run Nat :=
  if cond then .done (1 + (crosses s.pc (branchTarget s.pc off)).toNat) (s.setPc (branchTarget s.pc off))
  else .done 0 s

end Sys2Proof.Machine
end

