-- ==== Sys2Proof/Machine/Arithmetic.lean ====
section
/-!
DEFINITION. Addition, subtraction, increment and decrement (spec/44_arithmetic.md R140 to R147).
Each meaning runs on a state whose PC is past the instruction's bytes (spec/10_state.md R19).
-/

namespace Sys2Proof.Machine

/-- The add path that ADC and SBC share: the operand as it enters the adder, A and the carry give the sum
(spec/41_flag_engine_alu.md R98, R99). -/
def addToA (second : Byte) (s : State) : State :=
  (s.setA ((add9 s.a second (s.flag .c)).setWidth 8)).setP (addFlags s.a second (add9 s.a second (s.flag .c)) s.p)

/-- ADC: A + M + C, binary whatever D holds (R140, spec/41_flag_engine_alu.md R105). -/
def execAdc (src : ReadForm) (s : State) : Host.Outcome State Fault Refusal :=
  runInstr (.adc src) (readBody src addToA) s

/-- SBC: A + (M ^ 0xFF) + C (R141). -/
def execSbc (src : ReadForm) (s : State) : Host.Outcome State Fault Refusal :=
  runInstr (.sbc src) (readBody src fun m s => addToA (complement m) s) s

/-- INC: increment memory (R142). -/
def execInc (dst : MemForm) (s : State) : Host.Outcome State Fault Refusal :=
  runInstr (.inc dst) (modifyBody dst (fun m _ => increment m) fun m p => setNZ (increment m) p) s

/-- INX: increment X (R143). -/
def execInx (s : State) : Host.Outcome State Fault Refusal :=
  runInstr .inx (registerBody fun s => (s.setX (increment s.x)).setP (setNZ (increment s.x) s.p)) s

/-- INY: increment Y (R144). -/
def execIny (s : State) : Host.Outcome State Fault Refusal :=
  runInstr .iny (registerBody fun s => (s.setY (increment s.y)).setP (setNZ (increment s.y) s.p)) s

/-- DEC: decrement memory (R145). -/
def execDec (dst : MemForm) (s : State) : Host.Outcome State Fault Refusal :=
  runInstr (.dec dst) (modifyBody dst (fun m _ => decrement m) fun m p => setNZ (decrement m) p) s

/-- DEX: decrement X (R146). -/
def execDex (s : State) : Host.Outcome State Fault Refusal :=
  runInstr .dex (registerBody fun s => (s.setX (decrement s.x)).setP (setNZ (decrement s.x) s.p)) s

/-- DEY: decrement Y (R147). -/
def execDey (s : State) : Host.Outcome State Fault Refusal :=
  runInstr .dey (registerBody fun s => (s.setY (decrement s.y)).setP (setNZ (decrement s.y) s.p)) s

end Sys2Proof.Machine
end

