-- ==== Sys2Proof/Machine/Control.lean ====
section
/-!
DEFINITION. Compares, branches, jumps and subroutines (spec/46_compare_branch_jump.md R170 to R184).
Each meaning runs on a state whose PC is past the instruction's bytes (spec/10_state.md R19).
-/

namespace Sys2Proof.Machine

/-- CMP: compare A with memory (R170). -/
def execCmp (src : ReadForm) (s : State) : Host.Outcome State Fault Refusal :=
  runInstr (.cmp src) (readBody src fun m s => s.setP (compareFlags s.a m s.p)) s

/-- CPX: compare X with memory (R171). -/
def execCpx (src : ReadForm) (s : State) : Host.Outcome State Fault Refusal :=
  runInstr (.cpx src) (readBody src fun m s => s.setP (compareFlags s.x m s.p)) s

/-- CPY: compare Y with memory (R172). -/
def execCpy (src : ReadForm) (s : State) : Host.Outcome State Fault Refusal :=
  runInstr (.cpy src) (readBody src fun m s => s.setP (compareFlags s.y m s.p)) s

/-- BCC: branch if carry clear (R174). -/
def execBcc (off : Byte) (s : State) : Host.Outcome State Fault Refusal :=
  runInstr (.bcc off) (branchBody (!s.flag .c) off) s

/-- BCS: branch if carry set (R175). -/
def execBcs (off : Byte) (s : State) : Host.Outcome State Fault Refusal :=
  runInstr (.bcs off) (branchBody (s.flag .c) off) s

/-- BEQ: branch if zero set (R176). -/
def execBeq (off : Byte) (s : State) : Host.Outcome State Fault Refusal :=
  runInstr (.beq off) (branchBody (s.flag .z) off) s

/-- BMI: branch if negative set (R177). -/
def execBmi (off : Byte) (s : State) : Host.Outcome State Fault Refusal :=
  runInstr (.bmi off) (branchBody (s.flag .n) off) s

/-- BNE: branch if zero clear (R178). -/
def execBne (off : Byte) (s : State) : Host.Outcome State Fault Refusal :=
  runInstr (.bne off) (branchBody (!s.flag .z) off) s

/-- BPL: branch if negative clear (R179). -/
def execBpl (off : Byte) (s : State) : Host.Outcome State Fault Refusal :=
  runInstr (.bpl off) (branchBody (!s.flag .n) off) s

/-- BVC: branch if overflow clear (R180). -/
def execBvc (off : Byte) (s : State) : Host.Outcome State Fault Refusal :=
  runInstr (.bvc off) (branchBody (!s.flag .v) off) s

/-- BVS: branch if overflow set (R181). -/
def execBvs (off : Byte) (s : State) : Host.Outcome State Fault Refusal :=
  runInstr (.bvs off) (branchBody (s.flag .v) off) s

/-- JMP: jump to the effective address, which is not read (R182). -/
def execJmp (dst : MemForm) (s : State) : Host.Outcome State Fault Refusal :=
  runInstr (.jmp dst) (fun sensitive s => (resolve dst sensitive s).bind fun r s => .done r.2.toNat (s.setPc r.1)) s

/-- JSR: push the address of the instruction's own last byte, and jump (R183). -/
def execJsr (dst : Word) (s : State) : Host.Outcome State Fault Refusal :=
  runInstr (.jsr dst) (plainBody fun s => (pushWord (s.pc - 1) s).bind fun _ s => .done () (s.setPc dst)) s

/-- RTS: pull a return address and continue one past it (R184). -/
def execRts (s : State) : Host.Outcome State Fault Refusal :=
  runInstr .rts (plainBody fun s => (pullWord s).bind fun w s => .done () (s.setPc (w + 1))) s

end Sys2Proof.Machine
end

