-- ==== Sys2Proof/Machine/Logic.lean ====
section
/-!
DEFINITION. Logic, bit test, shifts and rotates (spec/45_logic_shift.md R155 to R162).
Each meaning runs on a state whose PC is past the instruction's bytes (spec/10_state.md R19).
-/

namespace Sys2Proof.Machine

/-- AND: bitwise and of A with memory (R155). -/
def execAnd (src : ReadForm) (s : State) : Host.Outcome State Fault Refusal :=
  runInstr (.and src) (readBody src fun m s => (s.setA (s.a &&& m)).setP (setNZ (s.a &&& m) s.p)) s

/-- ORA: bitwise or of A with memory (R156). -/
def execOra (src : ReadForm) (s : State) : Host.Outcome State Fault Refusal :=
  runInstr (.ora src) (readBody src fun m s => (s.setA (s.a ||| m)).setP (setNZ (s.a ||| m) s.p)) s

/-- EOR: bitwise exclusive or of A with memory (R157). -/
def execEor (src : ReadForm) (s : State) : Host.Outcome State Fault Refusal :=
  runInstr (.eor src) (readBody src fun m s => (s.setA (s.a ^^^ m)).setP (setNZ (s.a ^^^ m) s.p)) s

/-- BIT: test bits of memory against A; only N, V and Z are written (R158). -/
def execBit (src : MemForm) (s : State) : Host.Outcome State Fault Refusal :=
  runInstr (.bit src) (readBody (.mem src) fun m s => s.setP (bitFlags s.a m s.p)) s

/-- ASL: arithmetic shift left (R159). -/
def execAsl (dst : ShiftForm) (s : State) : Host.Outcome State Fault Refusal :=
  runInstr (.asl dst) (shiftBody dst fun v _ => shiftLeft v false) s

/-- LSR: logical shift right (R160). -/
def execLsr (dst : ShiftForm) (s : State) : Host.Outcome State Fault Refusal :=
  runInstr (.lsr dst) (shiftBody dst fun v _ => shiftRight v false) s

/-- ROL: rotate left through carry (R161). -/
def execRol (dst : ShiftForm) (s : State) : Host.Outcome State Fault Refusal :=
  runInstr (.rol dst) (shiftBody dst fun v p => shiftLeft v (getFlag .c p)) s

/-- ROR: rotate right through carry (R162). -/
def execRor (dst : ShiftForm) (s : State) : Host.Outcome State Fault Refusal :=
  runInstr (.ror dst) (shiftBody dst fun v p => shiftRight v (getFlag .c p)) s

end Sys2Proof.Machine
end

