-- ==== Sys2Proof/Machine/Stack.lean ====
section
/-!
DEFINITION. The stack instructions (spec/43_stack.md R130 to R133).
Each meaning runs on a state whose PC is past the instruction's bytes (spec/10_state.md R19).
-/

namespace Sys2Proof.Machine

/-- PHA: push A (R130). -/
def execPha (s : State) : Host.Outcome State Fault Refusal :=
  runInstr .pha (plainBody (push s.a)) s

/-- PHP: push P with bits 4 and 5 set; P stays (R131). -/
def execPhp (s : State) : Host.Outcome State Fault Refusal :=
  runInstr .php (plainBody (push (pushedStatus s.p))) s

/-- PLA: pull A (R132). -/
def execPla (s : State) : Host.Outcome State Fault Refusal :=
  runInstr .pla (plainBody fun s => (pull s).bind fun v s => .done () ((s.setA v).setP (setNZ v s.p))) s

/-- PLP: pull P; B is kept and bit 5 is 1 (R133). -/
def execPlp (s : State) : Host.Outcome State Fault Refusal :=
  runInstr .plp (plainBody fun s => (pull s).bind fun v s => .done () (s.setP (pulledStatus v s.p))) s

end Sys2Proof.Machine
end

