-- ==== Sys2Proof/Machine/System.lean ====
section
/-!
DEFINITION. Flag set and clear, no operation, break, return from interrupt (spec/47_flag_ops_break.md R195 to R204),
and the unsupported opcodes (spec/60_exceptions.md R215).
Each meaning runs on a state whose PC is past the instruction's bytes (spec/10_state.md R19).
-/

namespace Sys2Proof.Machine

/-- CLC: clear carry (R195). -/
def execClc (s : State) : Host.Outcome State Fault Refusal :=
  runInstr .clc (registerBody fun s => s.setP (putFlag .c false s.p)) s

/-- SEC: set carry (R196). -/
def execSec (s : State) : Host.Outcome State Fault Refusal :=
  runInstr .sec (registerBody fun s => s.setP (putFlag .c true s.p)) s

/-- CLI: clear interrupt-disable (R197). -/
def execCli (s : State) : Host.Outcome State Fault Refusal :=
  runInstr .cli (registerBody fun s => s.setP (putFlag .i false s.p)) s

/-- SEI: set interrupt-disable (R198). -/
def execSei (s : State) : Host.Outcome State Fault Refusal :=
  runInstr .sei (registerBody fun s => s.setP (putFlag .i true s.p)) s

/-- CLV: clear overflow (R199). -/
def execClv (s : State) : Host.Outcome State Fault Refusal :=
  runInstr .clv (registerBody fun s => s.setP (putFlag .v false s.p)) s

/-- CLD: clear decimal (R200). -/
def execCld (s : State) : Host.Outcome State Fault Refusal :=
  runInstr .cld (registerBody fun s => s.setP (putFlag .d false s.p)) s

/-- SED: set decimal (R201). -/
def execSed (s : State) : Host.Outcome State Fault Refusal :=
  runInstr .sed (registerBody fun s => s.setP (putFlag .d true s.p)) s

/-- NOP: nothing but the advance of PC (R202). -/
def execNop (s : State) : Host.Outcome State Fault Refusal :=
  runInstr .nop (registerBody fun s => s) s

/-- What BRK does under either value of `BRK_VECTORING` (R203): `off` sets B and execution goes on; `on` is the trap
entry. -/
def breakAction (s : State) : Run Unit :=
  if s.cfg.brkVectoring then enterTrap s else .done () (s.setP (putFlag .b true s.p))

/-- BRK: software break (R203). -/
def execBrk (s : State) : Host.Outcome State Fault Refusal :=
  runInstr .brk (plainBody breakAction) s

/-- RTI: return from interrupt (R204). -/
def execRti (s : State) : Host.Outcome State Fault Refusal :=
  runInstr .rti (plainBody returnFromTrap) s

/-- An unsupported opcode raises `UnsupportedOpcode`; PC is past the opcode byte (spec/60_exceptions.md R215). -/
def execUnsupported (opcode : Byte) (s : State) : Host.Outcome State Fault Refusal :=
  match (Instr.unsupported opcode).opcode with
  | some b => raiseFault (.unsupportedOpcode b) s
  | none => .refused .noSuchForm

end Sys2Proof.Machine
end

