-- ==== Sys2Proof/Machine/Transfer.lean ====
section
/-!
DEFINITION. The register transfers, the loads and the stores (spec/42_transfer_load_store.md R110 to R121).
Each meaning runs on a state whose PC is past the instruction's bytes (spec/10_state.md R19).
-/

namespace Sys2Proof.Machine

/-- TAX: A to X (R110). -/
def execTax (s : State) : Host.Outcome State Fault Refusal :=
  runInstr .tax (registerBody fun s => (s.setX s.a).setP (setNZ s.a s.p)) s

/-- TAY: A to Y (R111). -/
def execTay (s : State) : Host.Outcome State Fault Refusal :=
  runInstr .tay (registerBody fun s => (s.setY s.a).setP (setNZ s.a s.p)) s

/-- TXA: X to A (R112). -/
def execTxa (s : State) : Host.Outcome State Fault Refusal :=
  runInstr .txa (registerBody fun s => (s.setA s.x).setP (setNZ s.x s.p)) s

/-- TYA: Y to A (R113). -/
def execTya (s : State) : Host.Outcome State Fault Refusal :=
  runInstr .tya (registerBody fun s => (s.setA s.y).setP (setNZ s.y s.p)) s

/-- TSX: S to X (R114). -/
def execTsx (s : State) : Host.Outcome State Fault Refusal :=
  runInstr .tsx (registerBody fun s => (s.setX s.sp).setP (setNZ s.sp s.p)) s

/-- TXS: X to S; no flag is written (R115). -/
def execTxs (s : State) : Host.Outcome State Fault Refusal :=
  runInstr .txs (registerBody fun s => s.setSp s.x) s

/-- LDA: load A from memory (R116). -/
def execLda (src : ReadForm) (s : State) : Host.Outcome State Fault Refusal :=
  runInstr (.lda src) (readBody src fun m s => (s.setA m).setP (setNZ m s.p)) s

/-- LDX: load X from memory (R117). -/
def execLdx (src : ReadForm) (s : State) : Host.Outcome State Fault Refusal :=
  runInstr (.ldx src) (readBody src fun m s => (s.setX m).setP (setNZ m s.p)) s

/-- LDY: load Y from memory (R118). -/
def execLdy (src : ReadForm) (s : State) : Host.Outcome State Fault Refusal :=
  runInstr (.ldy src) (readBody src fun m s => (s.setY m).setP (setNZ m s.p)) s

/-- STA: store A to memory (R119). -/
def execSta (dst : MemForm) (s : State) : Host.Outcome State Fault Refusal :=
  runInstr (.sta dst) (storeBody dst s.a) s

/-- STX: store X to memory (R120). -/
def execStx (dst : MemForm) (s : State) : Host.Outcome State Fault Refusal :=
  runInstr (.stx dst) (storeBody dst s.x) s

/-- STY: store Y to memory (R121). -/
def execSty (dst : MemForm) (s : State) : Host.Outcome State Fault Refusal :=
  runInstr (.sty dst) (storeBody dst s.y) s

end Sys2Proof.Machine
end

