-- ==== Sys2Proof/Machine/Fetch.lean ====
section
/-!
DEFINITION. Fetching an instruction (spec/30_encoding.md R55 steps 1 to 3 as far as they read the instruction's own
bytes): the opcode byte, then the operand bytes of its mode, with PC moving as each mode's rule says
(spec/40_address_resolver.md R71 to R83).
-/

namespace Sys2Proof.Machine

/-- The operand bytes of a mode (a byte the mode does not have is 0, and is not read). Immediate moves PC and then
reads (R73, where the read is the instruction's own); the other one-byte modes read and then move PC (R74 to R76,
R81 to R83); the two-byte modes read both and then move PC by 2 (R77 to R80). -/
def fetchOperands (mode : Mode) (s : State) : Run (Byte × Byte) :=
  match mode with
  | .imp | .acc | .noMode => .done (0, 0) s
  | .imm => (memRead s.pc (s.setPc (s.pc + 1))).bind fun aa s => .done (aa, 0) s
  | .zp | .zpx | .zpy | .izx | .izy | .rel =>
    (memRead s.pc s).bind fun aa s => .done (aa, 0) (s.setPc (s.pc + 1))
  | .abs | .abx | .aby | .ind =>
    (memRead s.pc s).bind fun aa s => (memRead (s.pc + 1) s).bind fun bb s => .done (aa, bb) (s.setPc (s.pc + 2))

/-- Read the instruction at PC and move PC past it. -/
def fetch (s : State) : Run Instr :=
  (memRead s.pc s).bind fun opcode s =>
  (fetchOperands (modeOf opcode) (s.setPc (s.pc + 1))).bind fun ops s =>
  .done (assemble opcode ops.1 ops.2) s

/-- The storage after bytes are placed at rising addresses, modulo 65536, from `addr` on. -/
def placeBytes : List Byte → Word → State → State
  | [], _, s => s
  | v :: rest, addr, s => placeBytes rest (addr + 1) (s.putByte addr v)

/-- What a fetched instruction, or the fault that ended the fetch, comes to (R55). -/
def afterFetch (run : Instr → State → Host.Outcome State Fault Refusal) :
    Run Instr → Host.Outcome State Fault Refusal
  | .done i s => run i s
  | .raised f s => raiseFault f s

end Sys2Proof.Machine
end

