-- ==== Sys2Proof/Machine/Step.lean ====
section
/-!
DEFINITION. `Step()` (spec/30_encoding.md R55, spec/00_scope.md R7): one complete instruction, and the answer.
-/

namespace Sys2Proof.Machine

/-- One `Step()`: refused while a register is unspecified (spec/10_state.md R31); else the instruction at PC is
fetched and run. -/
def step (s : State) : Host.Outcome State Fault Refusal :=
  if s.specified.all then afterFetch exec (fetch s.beginRequest) else .refused .registersUnspecified

/-- The state with the three bytes of a table word placed where the next step fetches: at PC (log entry 3). -/
def State.withFetchWord (s : State) (nbits w : Nat) : State := placeBytes (tableBytes nbits w) s.pc s

end Sys2Proof.Machine
end

