-- ==== Sys2Proof/Machine/Ports.lean ====
section
/-!
DEFINITION. The `reset` and `debug` ports (spec/00_scope.md R6): requests of the host between steps (R7), which no
instruction makes.
-/

namespace Sys2Proof.Machine

/-- The core before its first `Reset()` in a given environment (spec/10_state.md R31): no register is specified.
What the register fields hold is never read while they are not (log entry 10). -/
def State.powerOn (cfg : Config.Params) (map : Config.AddressMap) (mem : List Host.Cell) : State where
  a  := 0
  x  := 0
  y  := 0
  sp := 0
  p  := 0
  pc := 0
  specified := Specified.nothing
  cfg := cfg
  map := map
  mem := mem
  oracleCount := 0
  trace := []
  answer := .nothing

/-- The five register writes of `Reset()` (spec/70_reset_and_hazards.md R240): A, X, Y, S and P are specified from
here on, and PC is not until the vector is read (R242). -/
def State.resetRegisters (s : State) : State :=
  (((((s.setA s.cfg.resetA).setX s.cfg.resetX).setY s.cfg.resetY).setSp s.cfg.resetS).setP
    (s.cfg.resetP ||| 0x20)).setSpecified ⟨true, true, true, true, true, false⟩

/-- `Reset()` (R240 to R242): the registers, then PC from `RESET_VECTOR`, low byte first. If a vector read fails the
answer is the fault, and PC stays unspecified. -/
def resetPort (s : State) : State :=
  match memReadWord s.cfg.resetVector (s.cfg.resetVector + 1) s.beginRequest.resetRegisters with
  | .done w t => ((t.setPc w).setSpecified Specified.every).answered .resetOk
  | .raised f t => t.answered (.fault f)

/-- The registers of the `debug` port (spec/10_state.md R33). -/
inductive DebugReg where
  | a | x | y | s | p | pc
  deriving DecidableEq, Repr

/-- Whether a register is specified. -/
def Specified.has (r : Specified) : DebugReg → Bool
  | .a => r.a
  | .x => r.x
  | .y => r.y
  | .s => r.sp
  | .p => r.p
  | .pc => r.pc

/-- What an unspecified register answers: a free value as wide as the register (R31, spec/00_scope.md R6). -/
def DebugReg.unspecified : DebugReg → Word
  | .a => zeroExtend16 (Config.unspecifiedByte 0)
  | .x => zeroExtend16 (Config.unspecifiedByte 1)
  | .y => zeroExtend16 (Config.unspecifiedByte 2)
  | .s => zeroExtend16 (Config.unspecifiedByte 3)
  | .p => zeroExtend16 (Config.unspecifiedByte 4)
  | .pc => Config.unspecifiedPc

/-- The register's value, an 8-bit one zero-extended. -/
def State.register (s : State) : DebugReg → Word
  | .a => zeroExtend16 s.a
  | .x => zeroExtend16 s.x
  | .y => zeroExtend16 s.y
  | .s => zeroExtend16 s.sp
  | .p => zeroExtend16 s.p
  | .pc => s.pc

/-- `DebugRead(reg)` (R33): the register's value, and nothing changes. An unspecified register answers a free value
of its width (R31, spec/93_implementation_defined.md U2); an 8-bit value is zero-extended either way. -/
def debugRead (reg : DebugReg) (s : State) : Word :=
  if s.specified.has reg then s.register reg else reg.unspecified

/-- `DebugWrite(reg, v)` (R33): the register is written, P with bit 5 forced, and is specified from here on (R31);
an 8-bit register takes the low byte. No bus transaction. -/
def debugWrite (reg : DebugReg) (v : Word) (s : State) : State :=
  match reg with
  | .a => (s.setA (lowByte v)).setSpecified { s.specified with a := true }
  | .x => (s.setX (lowByte v)).setSpecified { s.specified with x := true }
  | .y => (s.setY (lowByte v)).setSpecified { s.specified with y := true }
  | .s => (s.setSp (lowByte v)).setSpecified { s.specified with sp := true }
  | .p => (s.setP (lowByte v ||| 0x20)).setSpecified { s.specified with p := true }
  | .pc => (s.setPc v).setSpecified { s.specified with pc := true }

end Sys2Proof.Machine
end

