-- ==== Sys2Proof/Safety.lean ====
section
/-!
DEFINITION. What counts as a good state and a safe run, in the terms the statements use.
-/

namespace Sys2Proof.Machine

/-- The invariant of the machine after a `Reset()`: storage is in canonical form, the address map meets the
constraint on its boundaries (spec/20_memory.md R43), bit 5 of P is 1 (spec/10_state.md R22), and every register is
specified (R31). -/
abbrev State.Inv (s : State) : Prop :=
  memWf s.mem ∧ s.map.wf ∧ s.flag .u = true ∧ s.specified.all = true

/-- The environment backs every address: each read and each write is answered `ok` (spec/60_exceptions.md R219: when
it answers `error` is the environment's). -/
def Backed (map : Config.AddressMap) : Prop :=
  ∀ addr, ((lawAt map addr).onRead = .stored ∨ (lawAt map addr).onRead = .anyValue) ∧
    ((lawAt map addr).onWrite = .store ∨ (lawAt map addr).onWrite = .discard)

/-- An address is plain storage: it reads what was last written (spec/20_memory.md R36, R43). -/
abbrev State.Plain (s : State) (addr : Word) : Prop :=
  lawAt s.map addr = { onRead := .stored, onWrite := .store }

/-- A step that ran an instruction to its end: `Step()` answers a cycle count. -/
def SafeStep (s t : State) : Prop := step s = .next t ∧ ∃ n, t.answer = .cycles n

/-- `n` steps, none of which answers a fault. -/
def SafeRun : Nat → State → Prop
  | 0, _ => True
  | n + 1, s => ∃ t, SafeStep s t ∧ SafeRun n t

end Sys2Proof.Machine
end

