-- ==== Sys2Proof/Certificates/Slice0/Obligations.lean ====
section
/-!
DEFINITION. The statements for the provers, each a `Prop` named `Obligations.<Name>`, and the vocabulary they share:
the Encoding table of each instruction rule with an operand form, written out from the spec, and what the rules say
of results and flags, in the spec's integer arithmetic and not in the model's functions. The pushed and pulled status
bytes (spec/43_stack.md R131, R133) are the spec's own expressions.
-/

namespace Sys2Proof.Claims
open Sys2Proof.Machine

/-! ## Encoding tables -/

/-- A row of an Encoding table: opcode, mode, bytes, base cycles, and whether the count carries a `+`. -/
structure Row where
  opcode    : Byte
  mode      : Mode
  bytes     : Nat
  cycles    : Nat
  sensitive : Bool
  deriving DecidableEq, Repr

/-- The Encoding table of R116. -/
def ldaRows : List Row :=
  [⟨0xA9, .imm, 2, 2, false⟩, ⟨0xA5, .zp, 2, 3, false⟩, ⟨0xB5, .zpx, 2, 4, false⟩,
   ⟨0xAD, .abs, 3, 4, false⟩, ⟨0xBD, .abx, 3, 4, true⟩, ⟨0xB9, .aby, 3, 4, true⟩,
   ⟨0xA1, .izx, 2, 6, false⟩, ⟨0xB1, .izy, 2, 5, true⟩]

/-- The Encoding table of R117. -/
def ldxRows : List Row :=
  [⟨0xA2, .imm, 2, 2, false⟩, ⟨0xA6, .zp, 2, 3, false⟩, ⟨0xB6, .zpy, 2, 4, false⟩,
   ⟨0xAE, .abs, 3, 4, false⟩, ⟨0xBE, .aby, 3, 4, true⟩]

/-- The Encoding table of R118. -/
def ldyRows : List Row :=
  [⟨0xA0, .imm, 2, 2, false⟩, ⟨0xA4, .zp, 2, 3, false⟩, ⟨0xB4, .zpx, 2, 4, false⟩,
   ⟨0xAC, .abs, 3, 4, false⟩, ⟨0xBC, .abx, 3, 4, true⟩]

/-- The Encoding table of R119. -/
def staRows : List Row :=
  [⟨0x85, .zp, 2, 3, false⟩, ⟨0x95, .zpx, 2, 4, false⟩, ⟨0x8D, .abs, 3, 4, false⟩,
   ⟨0x9D, .abx, 3, 5, false⟩, ⟨0x99, .aby, 3, 5, false⟩, ⟨0x81, .izx, 2, 6, false⟩,
   ⟨0x91, .izy, 2, 6, false⟩]

/-- The Encoding table of R120. -/
def stxRows : List Row :=
  [⟨0x86, .zp, 2, 3, false⟩, ⟨0x96, .zpy, 2, 4, false⟩, ⟨0x8E, .abs, 3, 4, false⟩]

/-- The Encoding table of R121. -/
def styRows : List Row :=
  [⟨0x84, .zp, 2, 3, false⟩, ⟨0x94, .zpx, 2, 4, false⟩, ⟨0x8C, .abs, 3, 4, false⟩]

/-- The Encoding table of R140. -/
def adcRows : List Row :=
  [⟨0x69, .imm, 2, 2, false⟩, ⟨0x65, .zp, 2, 3, false⟩, ⟨0x75, .zpx, 2, 4, false⟩,
   ⟨0x6D, .abs, 3, 4, false⟩, ⟨0x7D, .abx, 3, 4, true⟩, ⟨0x79, .aby, 3, 4, true⟩,
   ⟨0x61, .izx, 2, 6, false⟩, ⟨0x71, .izy, 2, 5, true⟩]

/-- The Encoding table of R141. -/
def sbcRows : List Row :=
  [⟨0xE9, .imm, 2, 2, false⟩, ⟨0xE5, .zp, 2, 3, false⟩, ⟨0xF5, .zpx, 2, 4, false⟩,
   ⟨0xED, .abs, 3, 4, false⟩, ⟨0xFD, .abx, 3, 4, true⟩, ⟨0xF9, .aby, 3, 4, true⟩,
   ⟨0xE1, .izx, 2, 6, false⟩, ⟨0xF1, .izy, 2, 5, true⟩]

/-- The Encoding table of R142. -/
def incRows : List Row :=
  [⟨0xE6, .zp, 2, 5, false⟩, ⟨0xF6, .zpx, 2, 6, false⟩, ⟨0xEE, .abs, 3, 6, false⟩,
   ⟨0xFE, .abx, 3, 7, false⟩]

/-- The Encoding table of R145. -/
def decRows : List Row :=
  [⟨0xC6, .zp, 2, 5, false⟩, ⟨0xD6, .zpx, 2, 6, false⟩, ⟨0xCE, .abs, 3, 6, false⟩,
   ⟨0xDE, .abx, 3, 7, false⟩]

/-- The Encoding table of R155. -/
def andRows : List Row :=
  [⟨0x29, .imm, 2, 2, false⟩, ⟨0x25, .zp, 2, 3, false⟩, ⟨0x35, .zpx, 2, 4, false⟩,
   ⟨0x2D, .abs, 3, 4, false⟩, ⟨0x3D, .abx, 3, 4, true⟩, ⟨0x39, .aby, 3, 4, true⟩,
   ⟨0x21, .izx, 2, 6, false⟩, ⟨0x31, .izy, 2, 5, true⟩]

/-- The Encoding table of R156. -/
def oraRows : List Row :=
  [⟨0x09, .imm, 2, 2, false⟩, ⟨0x05, .zp, 2, 3, false⟩, ⟨0x15, .zpx, 2, 4, false⟩,
   ⟨0x0D, .abs, 3, 4, false⟩, ⟨0x1D, .abx, 3, 4, true⟩, ⟨0x19, .aby, 3, 4, true⟩,
   ⟨0x01, .izx, 2, 6, false⟩, ⟨0x11, .izy, 2, 5, true⟩]

/-- The Encoding table of R157. -/
def eorRows : List Row :=
  [⟨0x49, .imm, 2, 2, false⟩, ⟨0x45, .zp, 2, 3, false⟩, ⟨0x55, .zpx, 2, 4, false⟩,
   ⟨0x4D, .abs, 3, 4, false⟩, ⟨0x5D, .abx, 3, 4, true⟩, ⟨0x59, .aby, 3, 4, true⟩,
   ⟨0x41, .izx, 2, 6, false⟩, ⟨0x51, .izy, 2, 5, true⟩]

/-- The Encoding table of R158. -/
def bitRows : List Row :=
  [⟨0x24, .zp, 2, 3, false⟩, ⟨0x2C, .abs, 3, 4, false⟩]

/-- The Encoding table of R159. -/
def aslRows : List Row :=
  [⟨0x0A, .acc, 1, 2, false⟩, ⟨0x06, .zp, 2, 5, false⟩, ⟨0x16, .zpx, 2, 6, false⟩,
   ⟨0x0E, .abs, 3, 6, false⟩, ⟨0x1E, .abx, 3, 7, false⟩]

/-- The Encoding table of R160. -/
def lsrRows : List Row :=
  [⟨0x4A, .acc, 1, 2, false⟩, ⟨0x46, .zp, 2, 5, false⟩, ⟨0x56, .zpx, 2, 6, false⟩,
   ⟨0x4E, .abs, 3, 6, false⟩, ⟨0x5E, .abx, 3, 7, false⟩]

/-- The Encoding table of R161. -/
def rolRows : List Row :=
  [⟨0x2A, .acc, 1, 2, false⟩, ⟨0x26, .zp, 2, 5, false⟩, ⟨0x36, .zpx, 2, 6, false⟩,
   ⟨0x2E, .abs, 3, 6, false⟩, ⟨0x3E, .abx, 3, 7, false⟩]

/-- The Encoding table of R162. -/
def rorRows : List Row :=
  [⟨0x6A, .acc, 1, 2, false⟩, ⟨0x66, .zp, 2, 5, false⟩, ⟨0x76, .zpx, 2, 6, false⟩,
   ⟨0x6E, .abs, 3, 6, false⟩, ⟨0x7E, .abx, 3, 7, false⟩]

/-- The Encoding table of R170. -/
def cmpRows : List Row :=
  [⟨0xC9, .imm, 2, 2, false⟩, ⟨0xC5, .zp, 2, 3, false⟩, ⟨0xD5, .zpx, 2, 4, false⟩,
   ⟨0xCD, .abs, 3, 4, false⟩, ⟨0xDD, .abx, 3, 4, true⟩, ⟨0xD9, .aby, 3, 4, true⟩,
   ⟨0xC1, .izx, 2, 6, false⟩, ⟨0xD1, .izy, 2, 5, true⟩]

/-- The Encoding table of R171. -/
def cpxRows : List Row :=
  [⟨0xE0, .imm, 2, 2, false⟩, ⟨0xE4, .zp, 2, 3, false⟩, ⟨0xEC, .abs, 3, 4, false⟩]

/-- The Encoding table of R172. -/
def cpyRows : List Row :=
  [⟨0xC0, .imm, 2, 2, false⟩, ⟨0xC4, .zp, 2, 3, false⟩, ⟨0xCC, .abs, 3, 4, false⟩]

/-- The Encoding table of R182. -/
def jmpRows : List Row :=
  [⟨0x4C, .abs, 3, 3, false⟩, ⟨0x6C, .ind, 3, 5, false⟩]

/-! ## Flags -/

/-- Every flag outside the list is as it was. -/
def KeepsOther (fs : List Flag) (p q : Byte) : Prop := ∀ f, f ∉ fs → getFlag f q = getFlag f p

/-- N and Z of a result `v`: bit 7, and whether it is zero (spec/41_flag_engine_alu.md R91). -/
def HasNZ (v q : Byte) : Prop := getFlag .n q = v.getLsbD 7 ∧ (getFlag .z q = true ↔ v = 0)

/-- `SetNZ(v)` and nothing else. -/
def WritesNZ (v p q : Byte) : Prop := HasNZ v q ∧ KeepsOther [.n, .z] p q

/-- C, N and Z of an operation with result `v` and carry `cout`. -/
def WritesNZC (v : Byte) (cout : Prop) (p q : Byte) : Prop :=
  HasNZ v q ∧ (getFlag .c q = true ↔ cout) ∧ KeepsOther [.n, .z, .c] p q

/-- The 0 or 1 of a flag. -/
def flagNat (f : Flag) (s : State) : Nat := (s.flag f).toNat

/-- `ShiftLeft` (R101). -/
def IsShiftLeft (v : Byte) (cin : Bool) (r : Byte) (cout : Bool) : Prop :=
  r.toNat = (2 * v.toNat + cin.toNat) % 256 ∧ (cout = true ↔ 128 ≤ v.toNat)

/-- `ShiftRight` (R101). -/
def IsShiftRight (v : Byte) (cin : Bool) (r : Byte) (cout : Bool) : Prop :=
  r.toNat = v.toNat / 2 + 128 * cin.toNat ∧ (cout = true ↔ v.toNat % 2 = 1)

/-! ## Shapes of instruction rules -/

/-- A register-only instruction: its one encoding, and a next state that `effect` describes, with its count. -/
def RegisterInstr (i : Instr) (opcode : Byte) (cycles : Nat) (effect : State → State → Prop) : Prop :=
  encode i = [opcode] ∧ ∀ s : State, ∃ t, exec i s = .next t ∧ effect s t ∧ t.answer = .cycles cycles

/-- The operand of a reading instruction (spec/40_address_resolver.md R87): an immediate is the byte of the form, which
the fetch has read (R73, log entry 8); any other is what one read of the resolved effective address answers. `m` is
the byte, `x` the page-crossing cycle, `t` the state after the read. -/
def OperandRead (src : ReadForm) (sens : Bool) (s : State) (m : Byte) (x : Bool) (t : State) : Prop :=
  match src with
  | .imm v => m = v ∧ x = false ∧ t = s
  | .mem f => ∃ ea u, resolve f sens s = .done (ea, x) u ∧ memRead ea u = .done m t

/-- Reading the operand raises: resolving its address does, or the read at that address does. -/
def OperandRaises (src : ReadForm) (sens : Bool) (s : State) (f : Fault) (t : State) : Prop :=
  match src with
  | .imm _ => False
  | .mem m => resolve m sens s = .raised f t ∨ ∃ ea x u, resolve m sens s = .done (ea, x) u ∧ memRead ea u = .raised f t

/-- An instruction that reads an operand: for every row of its Encoding table, the bytes; where the operand is read,
the next state that `effect` describes (of the byte, the state after the read, and the next state) and the row's
count plus the page-crossing cycle; where a read raises, the fault. -/
def ReadInstr (mk : ReadForm → Instr) (rows : List Row) (effect : Byte → State → State → Prop) : Prop :=
  ∀ (row : Row) (src : ReadForm) (s : State), row ∈ rows → src.mode = row.mode →
    encode (mk src) = row.opcode :: src.bytes ∧ (encode (mk src)).length = row.bytes ∧
    (∀ m x t, OperandRead src row.sensitive s m x t →
      ∃ u, exec (mk src) s = .next u ∧ effect m t u ∧ u.answer = .cycles (row.cycles + x.toNat)) ∧
    (∀ f t, OperandRaises src row.sensitive s f t →
      exec (mk src) s = .next { t with answer := .fault f })

/-- An instruction that stores a register: the address is resolved, not read, and the byte is written there. -/
def StoreInstr (mk : MemForm → Instr) (rows : List Row) (val : State → Byte) : Prop :=
  ∀ (row : Row) (dst : MemForm) (s : State), row ∈ rows → dst.mode = row.mode →
    encode (mk dst) = row.opcode :: dst.bytes ∧ (encode (mk dst)).length = row.bytes ∧
    (∀ ea x t, resolve dst row.sensitive s = .done (ea, x) t →
      (∀ u, memWrite ea (val s) t = .done () u → exec (mk dst) s = .next { u with answer := .cycles row.cycles }) ∧
      (∀ f u, memWrite ea (val s) t = .raised f u → exec (mk dst) s = .next { u with answer := .fault f })) ∧
    (∀ f t, resolve dst row.sensitive s = .raised f t → exec (mk dst) s = .next { t with answer := .fault f })

/-- A read-modify-write: one read, one write of the same address with the new byte `result m p r` describes (of the
old byte, the old P and the new byte), then the flags that `flags m p r q` describes; a raise keeps P. -/
def ModifyInstr (mk : MemForm → Instr) (rows : List Row) (result : Byte → Byte → Byte → Prop)
    (flags : Byte → Byte → Byte → Byte → Prop) : Prop :=
  ∀ (row : Row) (dst : MemForm) (s : State), row ∈ rows → dst.mode = row.mode →
    encode (mk dst) = row.opcode :: dst.bytes ∧ (encode (mk dst)).length = row.bytes ∧
    (∀ ea x t m u, resolve dst row.sensitive s = .done (ea, x) t → memRead ea t = .done m u →
      ∃ r, result m s.p r ∧
        (∀ w, memWrite ea r u = .done () w →
          ∃ q, exec (mk dst) s = .next { w with p := q, answer := .cycles row.cycles } ∧ flags m s.p r q) ∧
        (∀ f w, memWrite ea r u = .raised f w → exec (mk dst) s = .next { w with answer := .fault f })) ∧
    (∀ ea x t f u, resolve dst row.sensitive s = .done (ea, x) t → memRead ea t = .raised f u →
      exec (mk dst) s = .next { u with answer := .fault f }) ∧
    (∀ f t, resolve dst row.sensitive s = .raised f t → exec (mk dst) s = .next { t with answer := .fault f })

/-- A shift or rotate on A and on memory: `shift v cin r cout` describes the shift, `cin` its carry in. -/
def ShiftInstr (mk : ShiftForm → Instr) (accOpcode : Byte) (rows : List Row)
    (shift : Byte → Bool → Byte → Bool → Prop) (cin : Byte → Bool) : Prop :=
  encode (mk .acc) = [accOpcode] ∧
  (∀ s : State, ∃ r cout q, shift s.a (cin s.p) r cout ∧ WritesNZC r (cout = true) s.p q ∧
    exec (mk .acc) s = .next { s with a := r, p := q, answer := .cycles 2 }) ∧
  ModifyInstr (fun m => mk (.mem m)) rows (fun m p r => ∃ cout, shift m (cin p) r cout)
    (fun m p r q => ∃ cout, shift m (cin p) r cout ∧ WritesNZC r (cout = true) p q)

/-- A conditional branch on the flag `f` having the value `val` (spec/46_compare_branch_jump.md R173): the target is
counted from the next instruction, which PC holds; 2 cycles not taken, 3 taken, 4 taken to another page. -/
def BranchInstr (mk : Byte → Instr) (opcode : Byte) (f : Flag) (val : Bool) : Prop :=
  ∀ (off : Byte) (s : State),
    encode (mk off) = [opcode, off] ∧
    (s.flag f ≠ val → exec (mk off) s = .next { s with answer := .cycles 2 }) ∧
    (s.flag f = val → ∃ target : Word, (target.toNat : Int) = ((s.pc.toNat : Int) + off.toInt) % 65536 ∧
      exec (mk off) s = .next
        { s with pc := target, answer := .cycles (if target.toNat / 256 = s.pc.toNat / 256 then 3 else 4) })

/-- The rows with an effective address, of a table that has an accumulator row. -/
def memoryRows (rows : List Row) : List Row := rows.filter (fun r => r.mode ≠ .acc)

/-! ## Effects -/

/-- A register gets the byte, N and Z are of it, and nothing else changes. -/
def LoadsA (v : Byte) (t u : State) : Prop := u = { t with a := v, p := u.p, answer := u.answer } ∧ WritesNZ v t.p u.p
def LoadsX (v : Byte) (t u : State) : Prop := u = { t with x := v, p := u.p, answer := u.answer } ∧ WritesNZ v t.p u.p
def LoadsY (v : Byte) (t u : State) : Prop := u = { t with y := v, p := u.p, answer := u.answer } ∧ WritesNZ v t.p u.p

/-- ADC (spec/44_arithmetic.md R140), in integers: C is the carry out of the unsigned sum, V that the signed sum lies
outside -128 to +127. -/
def Adds (m : Byte) (t u : State) : Prop :=
  u = { t with a := u.a, p := u.p, answer := u.answer } ∧
  u.a.toNat = (t.a.toNat + m.toNat + flagNat .c t) % 256 ∧
  (u.flag .c = true ↔ 256 ≤ t.a.toNat + m.toNat + flagNat .c t) ∧
  (u.flag .v = true ↔ t.a.toInt + m.toInt + flagNat .c t < -128 ∨ 127 < t.a.toInt + m.toInt + flagNat .c t) ∧
  HasNZ u.a u.p ∧ KeepsOther [.n, .v, .z, .c] t.p u.p

/-- SBC (R141), in integers: C is that no borrow occurred, V that the signed difference lies outside. -/
def Subtracts (m : Byte) (t u : State) : Prop :=
  u = { t with a := u.a, p := u.p, answer := u.answer } ∧
  (u.a.toNat : Int) = ((t.a.toNat : Int) - m.toNat - (1 - flagNat .c t)) % 256 ∧
  (u.flag .c = true ↔ 0 ≤ (t.a.toNat : Int) - m.toNat - (1 - flagNat .c t)) ∧
  (u.flag .v = true ↔ t.a.toInt - m.toInt - (1 - flagNat .c t) < -128 ∨ 127 < t.a.toInt - m.toInt - (1 - flagNat .c t)) ∧
  HasNZ u.a u.p ∧ KeepsOther [.n, .v, .z, .c] t.p u.p

/-- A compare of the register value `r` (spec/41_flag_engine_alu.md R103): only P changes. -/
def Compares (r m : Byte) (t u : State) : Prop :=
  u = { t with p := u.p, answer := u.answer } ∧
  (u.flag .c = true ↔ m.toNat ≤ r.toNat) ∧ (u.flag .z = true ↔ r = m) ∧
  (u.flag .n = true ↔ 128 ≤ (r.toNat + 256 - m.toNat) % 256) ∧ KeepsOther [.n, .z, .c] t.p u.p

/-- One flag is forced and nothing else changes. -/
def Forces (f : Flag) (val : Bool) (s t : State) : Prop :=
  t = { s with p := t.p, answer := t.answer } ∧ t.flag f = val ∧ KeepsOther [f] s.p t.p

/-! ## Which instruction touches what (spec/10_state.md R34) -/

def writesA (i : Instr) : Bool :=
  [.lda, .txa, .tya, .pla, .adc, .sbc, .and, .ora, .eor].contains i.operation || i.mode = .acc

def writesX (i : Instr) : Bool := [.ldx, .tax, .tsx, .inx, .dex].contains i.operation

def writesY (i : Instr) : Bool := [.ldy, .tay, .iny, .dey].contains i.operation

/-- `on` is `BRK_VECTORING`. -/
def writesS (on : Bool) (i : Instr) : Bool :=
  [.txs, .pha, .php, .pla, .plp, .jsr, .rts, .rti].contains i.operation || (on && i = .brk)

/-- The instructions that write PC beyond the fall-through. -/
def writesPc (on : Bool) (i : Instr) : Bool :=
  [.bcc, .bcs, .beq, .bmi, .bne, .bpl, .bvc, .bvs, .jmp, .jsr, .rts, .rti].contains i.operation || (on && i = .brk)

/-- Two addresses name one byte of storage (spec/20_memory.md R43): they are equal, or both lie in internal RAM and
agree in the low 11 bits. -/
abbrev SameByte (map : Config.AddressMap) (a b : Word) : Prop :=
  a = b ∨ (a.toNat < map.ramEnd ∧ b.toNat < map.ramEnd ∧ a.toNat % 2048 = b.toNat % 2048)

/-- The effective address of a form, where resolving it raises nothing. -/
def resolved (m : MemForm) (s : State) : List Word :=
  match resolve m false s with
  | .done r _ => [r.1]
  | .raised _ _ => []

/-- The stack address `k` below the one S names now. -/
def stackSlot (s : State) (k : Byte) : Word := joinBytes s.cfg.stackPage (s.sp - k)

/-- The addresses an instruction may store to, from the state it runs in. -/
def storedAddresses (i : Instr) (s : State) : List Word :=
  match i with
  | .sta dst | .stx dst | .sty dst | .inc dst | .dec dst => resolved dst s
  | .asl (.mem dst) | .lsr (.mem dst) | .rol (.mem dst) | .ror (.mem dst) => resolved dst s
  | .pha | .php => [stackSlot s 0]
  | .jsr _ => [stackSlot s 0, stackSlot s 1]
  | .brk => if s.cfg.brkVectoring then [stackSlot s 0, stackSlot s 1, stackSlot s 2] else []
  | .asl .acc | .lsr .acc | .rol .acc | .ror .acc => []
  | .tax | .tay | .txa | .tya | .tsx | .txs | .lda _ | .ldx _ | .ldy _ | .pla | .plp | .adc _ | .sbc _ => []
  | .inx | .iny | .dex | .dey | .and _ | .ora _ | .eor _ | .bit _ | .cmp _ | .cpx _ | .cpy _ => []
  | .bcc _ | .bcs _ | .beq _ | .bmi _ | .bne _ | .bpl _ | .bvc _ | .bvs _ | .jmp _ | .rts => []
  | .clc | .sec | .cli | .sei | .clv | .cld | .sed | .nop | .rti | .unsupported _ => []

/-! ## Bus transactions (spec/70_reset_and_hazards.md R253) -/

/-- The pointer reads of a mode. -/
def pointerReads : Mode → Nat
  | .ind | .izx | .izy => 2
  | .imp | .acc | .imm | .zp | .zpx | .zpy | .abs | .abx | .aby | .rel | .noMode => 0

/-- The column "count" of R253, past the fetch of the instruction's own bytes. -/
def transactions (on : Bool) (i : Instr) : Nat :=
  match i with
  | .lda src | .ldx src | .ldy src | .adc src | .sbc src | .and src | .ora src | .eor src
  | .cmp src | .cpx src | .cpy src => if src.mode = .imm then 0 else pointerReads src.mode + 1
  | .bit src => pointerReads src.mode + 1
  | .sta dst | .stx dst | .sty dst => pointerReads dst.mode + 1
  | .inc dst | .dec dst => pointerReads dst.mode + 2
  | .asl dst | .lsr dst | .rol dst | .ror dst => if dst.mode = .acc then 0 else pointerReads dst.mode + 2
  | .jmp dst => pointerReads dst.mode
  | .pha | .php | .pla | .plp => 1
  | .jsr _ | .rts => 2
  | .rti => 3
  | .brk => if on then 5 else 0
  | .tax | .tay | .txa | .tya | .tsx | .txs | .inx | .iny | .dex | .dey => 0
  | .bcc _ | .bcs _ | .beq _ | .bmi _ | .bne _ | .bpl _ | .bvc _ | .bvs _ => 0
  | .clc | .sec | .cli | .sei | .clv | .cld | .sed | .nop | .unsupported _ => 0

/-- What a transaction that was answered `ok` asked for: its direction and its address. -/
def granted : BusTxn → Option (Dir × Word)
  | .read addr _ => some (.read, addr)
  | .write addr _ => some (.write, addr)
  | .readError _ | .writeError _ _ => none

/-- The pointer reads of a form, in order: the low byte's address, then the high byte's (spec/40_address_resolver.md
R80 to R82). -/
def pointerAccesses (m : MemForm) (s : State) : List (Dir × Word) :=
  match m with
  | .ind ptr => [(.read, ptr), (.read, BitVec.ofNat 16 (match s.cfg.jmpIndWrap with
      | .page => ptr.toNat / 256 * 256 + (ptr.toNat + 1) % 256
      | .linear => (ptr.toNat + 1) % 65536))]
  | .izx aa => [(.read, BitVec.ofNat 16 ((aa.toNat + s.x.toNat) % 256)),
      (.read, BitVec.ofNat 16 ((aa.toNat + s.x.toNat + 1) % 256))]
  | .izy aa => [(.read, BitVec.ofNat 16 aa.toNat), (.read, BitVec.ofNat 16 ((aa.toNat + 1) % 256))]
  | .zp _ | .zpx _ | .zpy _ | .abs _ | .abx _ | .aby _ => []

/-- The pointer reads of a form, then the given accesses of its effective address. -/
def dataAccesses (m : MemForm) (dirs : List Dir) (s : State) : List (Dir × Word) :=
  pointerAccesses m s ++ dirs.flatMap fun d => (resolved m s).map fun ea => (d, ea)

/-- The stack address `k` above the one S names now. -/
def pullSlot (s : State) (k : Byte) : Word := joinBytes s.cfg.stackPage (s.sp + k)

/-- The column "transactions, in order" of R253, past the fetch of the instruction's own bytes: each transaction's
direction and address, from the state the instruction runs in. -/
def accesses (i : Instr) (s : State) : List (Dir × Word) :=
  match i with
  | .lda (.mem m) | .ldx (.mem m) | .ldy (.mem m) | .adc (.mem m) | .sbc (.mem m) | .and (.mem m) | .ora (.mem m)
  | .eor (.mem m) | .cmp (.mem m) | .cpx (.mem m) | .cpy (.mem m) | .bit m => dataAccesses m [.read] s
  | .lda (.imm _) | .ldx (.imm _) | .ldy (.imm _) | .adc (.imm _) | .sbc (.imm _) | .and (.imm _) | .ora (.imm _)
  | .eor (.imm _) | .cmp (.imm _) | .cpx (.imm _) | .cpy (.imm _) => []
  | .sta m | .stx m | .sty m => dataAccesses m [.write] s
  | .inc m | .dec m | .asl (.mem m) | .lsr (.mem m) | .rol (.mem m) | .ror (.mem m) =>
    dataAccesses m [.read, .write] s
  | .asl .acc | .lsr .acc | .rol .acc | .ror .acc => []
  | .jmp m => pointerAccesses m s
  | .pha | .php => [(.write, stackSlot s 0)]
  | .pla | .plp => [(.read, pullSlot s 1)]
  | .jsr _ => [(.write, stackSlot s 0), (.write, stackSlot s 1)]
  | .rts => [(.read, pullSlot s 1), (.read, pullSlot s 2)]
  | .rti => [(.read, pullSlot s 1), (.read, pullSlot s 2), (.read, pullSlot s 3)]
  | .brk =>
    if s.cfg.brkVectoring then
      [(.write, stackSlot s 0), (.write, stackSlot s 1), (.write, stackSlot s 2),
       (.read, s.cfg.brkVector), (.read, s.cfg.brkVector + 1)]
    else []
  | .tax | .tay | .txa | .tya | .tsx | .txs | .inx | .iny | .dex | .dey => []
  | .bcc _ | .bcs _ | .beq _ | .bmi _ | .bne _ | .bpl _ | .bvc _ | .bvs _ => []
  | .clc | .sec | .cli | .sei | .clv | .cld | .sed | .nop | .unsupported _ => []

/-- The three bytes at PC and after it. -/
def bytesAtPc (s : State) : List Byte := [s.byteAt s.pc, s.byteAt (s.pc + 1), s.byteAt (s.pc + 2)]

/-- The state in which an instruction of `n` bytes at PC runs, fetched from storage: PC is past it, and the trace
holds the reads of its bytes. -/
def fetched (s : State) (n : Nat) : State :=
  { s with
    pc := s.pc + BitVec.ofNat 16 n
    trace := (List.range n).map fun k => .read (s.pc + BitVec.ofNat 16 k) (s.byteAt (s.pc + BitVec.ofNat 16 k)) }

end Sys2Proof.Claims

open Sys2Proof Sys2Proof.Machine Sys2Proof.Claims

/-- O1. The nine encodings that R67 writes out, and one word each of the stack, arithmetic, logic, compare, flag, break
and unsupported rows, decode to the instruction they stand for and leave no byte over. (30_encoding.md R57,
30_encoding.md R62, 30_encoding.md R67) -/
def Obligations.SampleWordsDecode : Prop :=
  decode [0xA9, 0x00] = .ok (.lda (.imm 0x00)) [] ∧
  decode [0xA5, 0x10] = .ok (.lda (.mem (.zp 0x10))) [] ∧
  decode [0xB5, 0xFF] = .ok (.lda (.mem (.zpx 0xFF))) [] ∧
  decode [0xBD, 0xFF, 0x20] = .ok (.lda (.mem (.abx 0x20FF))) [] ∧
  decode [0xB1, 0x40] = .ok (.lda (.mem (.izy 0x40))) [] ∧
  decode [0x81, 0xFE] = .ok (.sta (.izx 0xFE)) [] ∧
  decode [0x6C, 0x00, 0x02] = .ok (.jmp (.ind 0x0200)) [] ∧
  decode [0x0A] = .ok (.asl .acc) [] ∧
  decode [0xD0, 0xF9] = .ok (.bne 0xF9) [] ∧
  decode [0x48] = .ok .pha [] ∧
  decode [0x69, 0x01] = .ok (.adc (.imm 0x01)) [] ∧
  decode [0x2C, 0x34, 0x12] = .ok (.bit (.abs 0x1234)) [] ∧
  decode [0xE4, 0x10] = .ok (.cpx (.mem (.zp 0x10))) [] ∧
  decode [0x78] = .ok .sei [] ∧
  decode [0x00] = .ok .brk [] ∧
  decode [0x02] = .ok (.unsupported 0x02) []

/-- O2. For every well-formed instruction i, with every value of its operand bytes, and every sequence of bytes after
it, decode of encode i followed by them is i and them. (30_encoding.md R57, 30_encoding.md R58, 30_encoding.md R62,
30_encoding.md R68) -/
def Obligations.DecodeOfEncodeIsTheInstruction : Prop :=
  ∀ (i : Instr) (rest : List Byte), i.wellFormed = true → decode (encode i ++ rest) = .ok i rest

/-- O3. If a sequence of bytes decodes to i with rest left over, i is well formed, and encode i followed by rest is
that sequence: no byte has two readings and none is dropped. (30_encoding.md R59, 30_encoding.md R62,
30_encoding.md R66, 30_encoding.md R68) -/
def Obligations.EncodeOfDecodeIsTheBytes : Prop :=
  ∀ (bytes : List Byte) (i : Instr) (rest : List Byte), decode bytes = .ok i rest →
    i.wellFormed = true ∧ encode i ++ rest = bytes

/-- O4. For all three bytes and all that follow, decode answers an instruction whose operation and mode are the opcode
map's entry for the first byte; the bytes left over are those past the one, two or three that the mode gives.
(30_encoding.md R56, 30_encoding.md R59, 30_encoding.md R61, 30_encoding.md R66) -/
def Obligations.EveryOpcodeByteDecodes : Prop :=
  ∀ (opcode aa bb : Byte) (rest : List Byte), ∃ i left, decode (opcode :: aa :: bb :: rest) = .ok i left ∧
    i.operation = operationOf opcode ∧ i.mode = modeOf opcode ∧
    left = (aa :: bb :: rest).drop (modeOf opcode).operandBytes

/-- O5. An opcode is sensitive exactly when its operation reads a memory operand and its mode is Absolute,X, Absolute,Y
or (zp),Y; the list has 23 entries and none twice. (30_encoding.md R63, 40_address_resolver.md R84) -/
def Obligations.SensitiveOpcodesAreTheIndexedReads : Prop :=
  (∀ b : Byte, sensitive b = true ↔
    ([.lda, .ldx, .ldy, .adc, .sbc, .and, .ora, .eor, .cmp, .cpx, .cpy, .bit].contains (operationOf b) &&
      [.abx, .aby, .izy].contains (modeOf b)) = true) ∧
  sensitiveOpcodes.length = 23 ∧ sensitiveOpcodes.Nodup

/-- O6. When every register is specified, the bytes at PC decode to i, and the bytes of i lie in storage, step is exec
of i in the state whose PC is past those bytes and whose trace is the reads of them, in order. (30_encoding.md R55,
10_state.md R19, 30_encoding.md R57) -/
def Obligations.StepRunsTheDecodedInstruction : Prop :=
  ∀ (s : State) (i : Instr) (rest : List Byte), s.specified.all = true → decode (bytesAtPc s) = .ok i rest →
    (∀ k, k < 3 - rest.length → (lawAt s.map (s.pc + BitVec.ofNat 16 k)).onRead = .stored) →
    step s = exec i (fetched s (3 - rest.length))

/-- O7. step answers the refusal registersUnspecified if and only if some register is unspecified, and answers no other
refusal. (10_state.md R31, 70_reset_and_hazards.md R242) -/
def Obligations.StepRefusedWhileARegisterIsUnspecified : Prop :=
  ∀ s : State, (step s = .refused .registersUnspecified ↔ s.specified.all = false) ∧
    ∀ r, step s = .refused r → r = .registersUnspecified

/-- O8. If the opcode read fails, only the answer and the trace change; if the first operand byte fails, PC is past the
opcode, and past the operand too in Immediate; if the second of two operand bytes fails, PC is past the opcode
only. (30_encoding.md R55, 40_address_resolver.md R73, 40_address_resolver.md R77, 60_exceptions.md R217,
60_exceptions.md R219) -/
def Obligations.FailedFetchLeavesPcByMode : Prop :=
  ∀ s : State, s.specified.all = true →
    ((lawAt s.map s.pc).onRead = .error → step s = .next
      { s with trace := [.readError s.pc], answer := .fault (.unbackedMemoryAccess s.pc .read) }) ∧
    ((lawAt s.map s.pc).onRead = .stored →
      ((modeOf (s.byteAt s.pc)).operandBytes ≠ 0 → (lawAt s.map (s.pc + 1)).onRead = .error → step s = .next
        { s with
          pc := if modeOf (s.byteAt s.pc) = .imm then s.pc + 2 else s.pc + 1
          trace := [.read s.pc (s.byteAt s.pc), .readError (s.pc + 1)]
          answer := .fault (.unbackedMemoryAccess (s.pc + 1) .read) }) ∧
      ((modeOf (s.byteAt s.pc)).operandBytes = 2 → (lawAt s.map (s.pc + 1)).onRead = .stored →
        (lawAt s.map (s.pc + 2)).onRead = .error → step s = .next
        { s with
          pc := s.pc + 1
          trace := [.read s.pc (s.byteAt s.pc), .read (s.pc + 1) (s.byteAt (s.pc + 1)), .readError (s.pc + 2)]
          answer := .fault (.unbackedMemoryAccess (s.pc + 2) .read) }))

/-- O9. From every state with all registers specified, step gives a next state, in which all registers are specified,
and the answer is a cycle count from 2 to 7 or one of the two fault records: no state stops the machine.
(00_scope.md R6, 00_scope.md R7, 60_exceptions.md R216, 60_exceptions.md R218, 70_reset_and_hazards.md R248) -/
def Obligations.EveryStepIsAnswered : Prop :=
  ∀ s : State, s.specified.all = true → ∃ t, step s = .next t ∧ t.specified.all = true ∧
    ((∃ n, t.answer = .cycles n ∧ 2 ≤ n ∧ n ≤ 7) ∨ ∃ f, t.answer = .fault f)

/-- O10. If every register is specified and every read and write is answered ok, a step gives a next state. Its first
transaction is the read of the opcode byte b at PC, which is the stored byte where PC lies in storage; if b is one
of the 105 values the answer is UnsupportedOpcode of b, and if not it is a cycle count. (60_exceptions.md R219,
60_exceptions.md R220, 60_exceptions.md R232) -/
def Obligations.BackedStepsFaultOnlyOnUnsupportedOpcodes : Prop :=
  ∀ s : State, s.specified.all = true → Backed s.map → ∃ (t : State) (b : Byte) (rest : List BusTxn),
    step s = .next t ∧ t.trace = .read s.pc b :: rest ∧ ((lawAt s.map s.pc).onRead = .stored → b = s.byteAt s.pc) ∧
    (b ∈ unsupportedOpcodes → t.answer = .fault (.unsupportedOpcode b)) ∧
    (b ∉ unsupportedOpcodes → ∃ n, t.answer = .cycles n)

/-- O11. The decoder has no operation for exactly the 105 values of R65; exec of one answers the fault record with its
byte and changes nothing else; and a step at one makes one read, leaves PC one past it and answers the record.
(R65, R215) -/
def Obligations.UnsupportedOpcodeFaults : Prop :=
  unsupportedOpcodes.length = 105 ∧ unsupportedOpcodes.Nodup ∧
  (∀ b : Byte, operationOf b = .unsupported ↔ b ∈ unsupportedOpcodes) ∧
  ∀ (b : Byte) (s : State), b ∈ unsupportedOpcodes →
    exec (.unsupported b) s = .next { s with answer := .fault (.unsupportedOpcode b) } ∧
    (s.specified.all = true → (lawAt s.map s.pc).onRead = .stored → s.byteAt s.pc = b → step s = .next
      { s with pc := s.pc + 1, trace := [.read s.pc b], answer := .fault (.unsupportedOpcode b) })

/-- O12. In State.reset the storage is in canonical form, the address map meets the constraint on its boundaries, bit 5
of P is 1 and every register is specified. The environment of State.reset is the model's choice (log entries 1 and
2). (10_state.md R22, 10_state.md R30, 20_memory.md R43) -/
def Obligations.InvariantHoldsAtReset : Prop :=
  State.reset.Inv

/-- O13. For every state that meets the invariant, if step answers a next state, fault answered or not, that state
meets it. (10_state.md R22, 10_state.md R31, 20_memory.md R36, 20_memory.md R43) -/
def Obligations.StepKeepsInvariant : Prop :=
  ∀ s t : State, s.Inv → step s = .next t → t.Inv

/-- O14. Reset() of the power-on state with the decided parameters, the flat map and nothing listed is State.reset,
with A, X, Y = 00, S = FD, P = 34 and PC = 0000. PC and the environment are the model's choice (log entries 1, 2
and 3). (10_state.md R30, 10_state.md R32, 70_reset_and_hazards.md R240) -/
def Obligations.ResetStateIsResetOfPowerOn : Prop :=
  resetPort (State.powerOn Config.decided Config.flatMap []) = State.reset ∧
  State.reset.a = 0x00 ∧ State.reset.x = 0x00 ∧ State.reset.y = 0x00 ∧ State.reset.sp = 0xFD ∧
  State.reset.p = 0x34 ∧ State.reset.pc = 0x0000

/-- O15. Reset() leaves bit 5 of P set; a debug write keeps it set, and one to P sets it; and no step clears it. (R22) -/
def Obligations.UnusedBitIsAlwaysOne : Prop :=
  (∀ s : State, (resetPort s).flag .u = true) ∧
  (∀ (s : State) (v : Word), (debugWrite .p v s).flag .u = true) ∧
  (∀ (s : State) (reg : DebugReg) (v : Word), s.flag .u = true → (debugWrite reg v s).flag .u = true) ∧
  (∀ s t : State, s.flag .u = true → step s = .next t → t.flag .u = true)

/-- O16. If B is 1 before a step, it is 1 after; and if an instruction other than BRK gives a next state, B is as it
was, PLP and RTI included. (10_state.md R24, 41_flag_engine_alu.md R96) -/
def Obligations.BreakIsNeverCleared : Prop :=
  (∀ s t : State, s.flag .b = true → step s = .next t → t.flag .b = true) ∧
  (∀ (i : Instr) (s t : State), i ≠ .brk → exec i s = .next t → t.flag .b = s.flag .b)

/-- O17. For every instruction and every state whose bit 5 of P is 1 (an invariant, stated on its own), if exec gives a
next state (a fault answered or not), every flag that R64 does not list for the operation is as it was. BRK's mask
has I only with BRK_VECTORING on; PLP and RTI load all but B and the unused bit. (30_encoding.md R64,
41_flag_engine_alu.md R97, 10_state.md R23) -/
def Obligations.FlagsOutsideTheMaskStay : Prop :=
  ∀ (i : Instr) (s t : State) (f : Flag), s.flag .u = true → exec i s = .next t →
    f ∉ i.operation.flagMask s.cfg.brkVectoring → t.flag f = s.flag f

/-- O18. For every instruction and state, if exec gives a next state, A, X, Y, S, P and PC (which lies past the
instruction already) are as they were unless R34 lists the register under writes; the parameters, the map and the
specified registers never change. (10_state.md R34, 10_state.md R19, 10_state.md R29) -/
def Obligations.RegistersUnchangedUnlessWritten : Prop :=
  ∀ (i : Instr) (s t : State), exec i s = .next t →
    (writesA i = false → t.a = s.a) ∧ (writesX i = false → t.x = s.x) ∧ (writesY i = false → t.y = s.y) ∧
    (writesS s.cfg.brkVectoring i = false → t.sp = s.sp) ∧
    (i.operation.flagMask s.cfg.brkVectoring = [] → t.p = s.p) ∧
    (writesPc s.cfg.brkVectoring i = false → t.pc = s.pc) ∧
    t.cfg = s.cfg ∧ t.map = s.map ∧ t.specified = s.specified

/-- O19. For every instruction and state, if exec gives a next state, every address that shares no byte of storage with
an address the instruction stores to reads as before. The stored addresses are the resolved effective address of
STA, STX, STY, INC, DEC and the memory shifts, and the stack slots that PHA, PHP, JSR and BRK with vectoring push
to; every other instruction stores nothing. (10_state.md R34, 20_memory.md R42, 20_memory.md R45,
40_address_resolver.md R87) -/
def Obligations.MemoryUnchangedOutsideStores : Prop :=
  ∀ (i : Instr) (s t : State) (addr : Word), exec i s = .next t →
    (∀ a ∈ storedAddresses i s, ¬ SameByte s.map addr a) → t.byteAt addr = s.byteAt addr

/-- O20. If the law of an address is not to store what is written (read-only storage, an I/O register, an unbacked
address, an address of which nothing is known), then after any step its storage holds what it held. For program ROM
this is R43's; that a write which the spec leaves open changes no stored byte, and that nothing but the core does,
is the model's choice (log entries 2, 5 and 11). (20_memory.md R43, 20_memory.md R52) -/
def Obligations.ReadOnlyStorageNeverChanges : Prop :=
  ∀ (s t : State) (addr : Word), step s = .next t → (lawAt s.map addr).onWrite ≠ .store →
    t.byteAt addr = s.byteAt addr

/-- O21. If exec completes with n cycles, the trace is the trace before with transactions added, all answered ok: their
directions and addresses, in order, are those that R253 gives the instruction past its own bytes, and their number
is R253's count less those bytes; and the bytes and those transactions together are at most n.
(70_reset_and_hazards.md R253, 20_memory.md R42, 20_memory.md R47) -/
def Obligations.BusTransactionsPerInstruction : Prop :=
  ∀ (i : Instr) (s t : State) (n : Nat), exec i s = .next t → t.answer = .cycles n →
    (∃ made, t.trace = s.trace ++ made ∧ made.map granted = (accesses i s).map some ∧
      made.length = transactions s.cfg.brkVectoring i) ∧
    (encode i).length + transactions s.cfg.brkVectoring i ≤ n

/-- O22. For each law of an address, MemRead and MemWrite make one transaction and answer what the law says: stored
data or any byte for a read that is answered ok, the fault record for an error, and one or the other where nothing
is known. A read changes no storage; what a write to plain storage leaves is O23's. The laws, the oracle's count
and that a write of another law changes no storage are the model's choice (log entries 2 and 5). (20_memory.md R36,
20_memory.md R37, 20_memory.md R43, 20_memory.md R52) -/
def Obligations.MemoryPrimitivesAnswerOrRaise : Prop :=
  ∀ (addr : Word) (s : State),
    ((lawAt s.map addr).onRead = .stored → memRead addr s =
      .done (s.byteAt addr) { s with trace := s.trace ++ [.read addr (s.byteAt addr)] }) ∧
    ((lawAt s.map addr).onRead = .anyValue → ∃ v, memRead addr s =
      .done v { s with oracleCount := s.oracleCount + 1, trace := s.trace ++ [.read addr v] }) ∧
    ((lawAt s.map addr).onRead = .error → memRead addr s =
      .raised (.unbackedMemoryAccess addr .read) { s with trace := s.trace ++ [.readError addr] }) ∧
    ((lawAt s.map addr).onRead = .anyAnswer →
      (∃ v, memRead addr s =
        .done v { s with oracleCount := s.oracleCount + 1, trace := s.trace ++ [.read addr v] }) ∨
      memRead addr s = .raised (.unbackedMemoryAccess addr .read)
        { s with oracleCount := s.oracleCount + 1, trace := s.trace ++ [.readError addr] }) ∧
    ∀ v : Byte,
      ((lawAt s.map addr).onWrite = .store → ∃ m, memWrite addr v s =
        .done () { s with mem := m, trace := s.trace ++ [.write addr v] }) ∧
      ((lawAt s.map addr).onWrite = .discard → memWrite addr v s =
        .done () { s with trace := s.trace ++ [.write addr v] }) ∧
      ((lawAt s.map addr).onWrite = .error → memWrite addr v s =
        .raised (.unbackedMemoryAccess addr .write) { s with trace := s.trace ++ [.writeError addr v] }) ∧
      ((lawAt s.map addr).onWrite = .anyAnswer →
        memWrite addr v s = .done ()
          { s with oracleCount := s.oracleCount + 1, trace := s.trace ++ [.write addr v] } ∨
        memWrite addr v s = .raised (.unbackedMemoryAccess addr .write)
          { s with oracleCount := s.oracleCount + 1, trace := s.trace ++ [.writeError addr v] })

/-- O23. If an address is plain storage and MemWrite stores v there, then every address that shares its byte (the same
one, or a RAM address equal in the low 11 bits) holds v, every other holds what it held, and MemRead of it gives v.
(20_memory.md R36, 20_memory.md R43) -/
def Obligations.ReadAfterWriteInPlainStorage : Prop :=
  ∀ (addr : Word) (v : Byte) (s t : State), s.Plain addr → memWrite addr v s = .done () t →
    (∀ b : Word, (SameByte s.map b addr → t.byteAt b = v) ∧ (¬ SameByte s.map b addr → t.byteAt b = s.byteAt b)) ∧
    memRead addr t = .done v { t with trace := t.trace ++ [.read addr v] }

/-- O24. Where the slot is plain storage, Push stores the byte at STACK_PAGE * 256 + S, and S becomes S - 1 modulo 256,
with no other change; if the write is answered error, the fault is raised and S is as it was. (R45) -/
def Obligations.PushWritesThenDecrements : Prop :=
  ∀ (v : Byte) (s : State), ∃ slot : Word, slot.toNat = 256 * s.cfg.stackPage.toNat + s.sp.toNat ∧
    (s.Plain slot → ∃ (m : List Host.Cell) (sp : Byte), sp.toNat = (s.sp.toNat + 255) % 256 ∧
      push v s = .done () { s with sp := sp, mem := m, trace := s.trace ++ [.write slot v] } ∧
      ∀ b : Word, (SameByte s.map b slot → ({ s with mem := m } : State).byteAt b = v) ∧
        (¬ SameByte s.map b slot → ({ s with mem := m } : State).byteAt b = s.byteAt b)) ∧
    ((lawAt s.map slot).onWrite = .error → push v s =
      .raised (.unbackedMemoryAccess slot .write) { s with trace := s.trace ++ [.writeError slot v] })

/-- O25. S becomes S + 1 modulo 256; where that slot is storage, Pull answers its byte with no other change; if the
read is answered error, the fault is raised with S already incremented. A pull right after a push to plain storage
gives the byte pushed and the S of before. (R46) -/
def Obligations.PullIncrementsThenReads : Prop :=
  (∀ s : State, ∃ (slot : Word) (sp : Byte), sp.toNat = (s.sp.toNat + 1) % 256 ∧
    slot.toNat = 256 * s.cfg.stackPage.toNat + sp.toNat ∧
    ((lawAt s.map slot).onRead = .stored → pull s =
      .done (s.byteAt slot) { s with sp := sp, trace := s.trace ++ [.read slot (s.byteAt slot)] }) ∧
    ((lawAt s.map slot).onRead = .error → pull s =
      .raised (.unbackedMemoryAccess slot .read) { s with sp := sp, trace := s.trace ++ [.readError slot] })) ∧
  (∀ (v : Byte) (s t : State), s.Plain (stackSlot s 0) → push v s = .done () t →
    ∃ u, pull t = .done v u ∧ u.sp = s.sp)

/-- O26. Zero Page gives aa, its indexed variants aa plus the index modulo 256; Absolute gives the address, its indexed
variants base plus the index modulo 65536, with the extra cycle exactly for a sensitive opcode whose base[7:0] plus
index exceeds 255. None makes a bus transaction or changes the state: the operand bytes were read, and PC moved
past them, before (log entry 8, the model's reading of R70). (40_address_resolver.md R74, 40_address_resolver.md
R75, 40_address_resolver.md R76, 40_address_resolver.md R77, 40_address_resolver.md R78, 40_address_resolver.md
R79, 40_address_resolver.md R84, 40_address_resolver.md R85) -/
def Obligations.DirectModesResolve : Prop :=
  ∀ (s : State) (sens : Bool) (aa : Byte) (base : Word), ∃ zp zpx zpy abx aby : Word,
    resolve (.zp aa) sens s = .done (zp, false) s ∧ zp.toNat = aa.toNat ∧
    resolve (.zpx aa) sens s = .done (zpx, false) s ∧ zpx.toNat = (aa.toNat + s.x.toNat) % 256 ∧
    resolve (.zpy aa) sens s = .done (zpy, false) s ∧ zpy.toNat = (aa.toNat + s.y.toNat) % 256 ∧
    resolve (.abs base) sens s = .done (base, false) s ∧
    resolve (.abx base) sens s = .done (abx, sens && decide (255 < base.toNat % 256 + s.x.toNat)) s ∧
    abx.toNat = (base.toNat + s.x.toNat) % 65536 ∧
    resolve (.aby base) sens s = .done (aby, sens && decide (255 < base.toNat % 256 + s.y.toNat)) s ∧
    aby.toNat = (base.toNat + s.y.toNat) % 65536

/-- O27. Where the two pointer bytes lie in storage, (ptr) reads them at ptr and in ptr's page (or at ptr + 1 with
JMP_IND_WRAP linear), (zp,X) and (zp),Y in page 0 with wrap, low byte first; the word is the address, to which
(zp),Y adds Y modulo 65536 with the page-crossing cycle of a sensitive opcode. (40_address_resolver.md R80,
40_address_resolver.md R81, 40_address_resolver.md R82, 40_address_resolver.md R84) -/
def Obligations.IndirectModesResolve : Prop :=
  ∀ (s : State) (sens : Bool),
    (∀ ptr hi : Word, hi.toNat = (match s.cfg.jmpIndWrap with
        | .page => ptr.toNat / 256 * 256 + (ptr.toNat + 1) % 256
        | .linear => (ptr.toNat + 1) % 65536) →
      (lawAt s.map ptr).onRead = .stored → (lawAt s.map hi).onRead = .stored →
      ∃ ea : Word, ea.toNat = 256 * (s.byteAt hi).toNat + (s.byteAt ptr).toNat ∧
        resolve (.ind ptr) sens s = .done (ea, false)
          { s with trace := s.trace ++ [.read ptr (s.byteAt ptr)] ++ [.read hi (s.byteAt hi)] }) ∧
    (∀ (aa : Byte) (lo hi : Word), lo.toNat = (aa.toNat + s.x.toNat) % 256 → hi.toNat = (lo.toNat + 1) % 256 →
      (lawAt s.map lo).onRead = .stored → (lawAt s.map hi).onRead = .stored →
      ∃ ea : Word, ea.toNat = 256 * (s.byteAt hi).toNat + (s.byteAt lo).toNat ∧
        resolve (.izx aa) sens s = .done (ea, false)
          { s with trace := s.trace ++ [.read lo (s.byteAt lo)] ++ [.read hi (s.byteAt hi)] }) ∧
    (∀ (aa : Byte) (lo hi : Word), lo.toNat = aa.toNat → hi.toNat = (aa.toNat + 1) % 256 →
      (lawAt s.map lo).onRead = .stored → (lawAt s.map hi).onRead = .stored →
      ∃ ea : Word, ea.toNat = (256 * (s.byteAt hi).toNat + (s.byteAt lo).toNat + s.y.toNat) % 65536 ∧
        resolve (.izy aa) sens s =
          .done (ea, sens && decide (255 < (s.byteAt lo).toNat + s.y.toNat))
            { s with trace := s.trace ++ [.read lo (s.byteAt lo)] ++ [.read hi (s.byteAt hi)] })

/-- O28. Whatever resolve or operandValue comes to, the state it leaves, done or raised, agrees with the state before
on everything but the trace and the oracle's count, and what it raises is UnbackedMemoryAccess of a read.
operandValue gives an immediate's byte, and else the byte of one read at the resolved address with the crossing
bit, or the fault of either. That PC stays, the operand bytes being read before, is log entry 8 (the model's
reading of R70); the count is entry 5. (40_address_resolver.md R70, 40_address_resolver.md R73,
40_address_resolver.md R87, 20_memory.md R42) -/
def Obligations.ResolvingTouchesOnlyTheBus : Prop :=
  ∀ (m : MemForm) (src : ReadForm) (sens : Bool) (s t : State),
    (∀ r, resolve m sens s = .done r t → t = { s with oracleCount := t.oracleCount, trace := t.trace }) ∧
    (∀ f, resolve m sens s = .raised f t → t = { s with oracleCount := t.oracleCount, trace := t.trace } ∧
      ∃ addr, f = .unbackedMemoryAccess addr .read) ∧
    (∀ r, operandValue src sens s = .done r t → t = { s with oracleCount := t.oracleCount, trace := t.trace }) ∧
    (∀ f, operandValue src sens s = .raised f t → t = { s with oracleCount := t.oracleCount, trace := t.trace } ∧
      ∃ addr, f = .unbackedMemoryAccess addr .read) ∧
    (∀ r, operandValue src sens s = .done r t ↔ OperandRead src sens s r.1 r.2 t) ∧
    (∀ f, operandValue src sens s = .raised f t ↔ OperandRaises src sens s f t)

/-- O29. Each is one byte, 2 cycles, and always completes; the destination gets the source register, N and Z are of the
value moved, the other flags and all else stay; TXS leaves P whole. (R110, R111, R112, R113, R114, R115) -/
def Obligations.TransfersMoveARegister : Prop :=
  RegisterInstr .tax 0xAA 2 (fun s t => LoadsX s.a s t) ∧
  RegisterInstr .tay 0xA8 2 (fun s t => LoadsY s.a s t) ∧
  RegisterInstr .txa 0x8A 2 (fun s t => LoadsA s.x s t) ∧
  RegisterInstr .tya 0x98 2 (fun s t => LoadsA s.y s t) ∧
  RegisterInstr .tsx 0xBA 2 (fun s t => LoadsX s.sp s t) ∧
  RegisterInstr .txs 0x9A 2 (fun s t => t = { s with sp := s.x, answer := t.answer })

/-- O30. For every row of their Encoding tables: the encoding; where the operand is read, the register gets the byte, N
and Z are of it, nothing else changes, and the count is the row's plus the page-crossing cycle; where a read
raises, the fault is answered. (R116, R117, R118) -/
def Obligations.LoadsReadOneByte : Prop :=
  ReadInstr .lda ldaRows LoadsA ∧ ReadInstr .ldx ldxRows LoadsX ∧ ReadInstr .ldy ldyRows LoadsY

/-- O31. For every row of their Encoding tables: the encoding; where the address is resolved and the write answered ok,
the next state is the one after that write, with the row's count whether or not a page is crossed; where either
raises, the fault is answered. (R119, R120, R121) -/
def Obligations.StoresWriteOneByte : Prop :=
  StoreInstr .sta staRows (fun s => s.a) ∧ StoreInstr .stx stxRows (fun s => s.x) ∧
  StoreInstr .sty styRows (fun s => s.y)

/-- O32. Each is one byte; where the push is answered ok, the next state is the one after it, with 3 cycles; where it
raises, the fault is answered. (R130, R131) -/
def Obligations.PushInstructions : Prop :=
  encode .pha = [0x48] ∧ encode .php = [0x08] ∧ ∀ s : State,
    (∀ t, push s.a s = .done () t → exec .pha s = .next { t with answer := .cycles 3 }) ∧
    (∀ f t, push s.a s = .raised f t → exec .pha s = .next { t with answer := .fault f }) ∧
    (∀ t, push (s.p ||| 0x30) s = .done () t → exec .php s = .next { t with answer := .cycles 3 }) ∧
    (∀ f t, push (s.p ||| 0x30) s = .raised f t → exec .php s = .next { t with answer := .fault f })

/-- O33. Each is one byte; where the pull is answered ok, PLA loads A from the byte and PLP loads P but B and bit 5,
nothing else changes, with 4 cycles; where it raises, the fault is answered, with A and P as they were. (R132,
R133) -/
def Obligations.PullInstructions : Prop :=
  encode .pla = [0x68] ∧ encode .plp = [0x28] ∧ ∀ s : State,
    (∀ v t, pull s = .done v t →
      (∃ u, exec .pla s = .next u ∧ LoadsA v t u ∧ u.answer = .cycles 4) ∧
      exec .plp s = .next { t with p := (v &&& 0xCF) ||| (s.p &&& 0x10) ||| 0x20, answer := .cycles 4 } ∧
      ∃ q, exec .plp s = .next { t with p := q, answer := .cycles 4 } ∧ getFlag .u q = true ∧
        getFlag .b q = getFlag .b s.p ∧ ∀ f, f ≠ .u → f ≠ .b → getFlag f q = getFlag f v) ∧
    (∀ f t, pull s = .raised f t →
      exec .pla s = .next { t with answer := .fault f } ∧ exec .plp s = .next { t with answer := .fault f } ∧
      t.a = s.a ∧ t.p = s.p)

/-- O34. For every row of ADC's Encoding table: the encoding; A becomes the sum modulo 256, C that it is 256 or more, V
that the signed sum is outside -128 to +127, N and Z of the new A, the other flags stay, nothing else changes, with
the row's count plus the page-crossing cycle; a raised read answers the fault. (R140) -/
def Obligations.AddWithCarry : Prop :=
  ReadInstr .adc adcRows Adds

/-- O35. For every row of SBC's Encoding table: the encoding; A becomes the difference modulo 256, C that it is not
negative, V that the signed difference is outside -128 to +127, N and Z of the new A, the other flags stay, nothing
else changes, with the row's count plus the page-crossing cycle; a raised read answers the fault. (R141) -/
def Obligations.SubtractWithBorrow : Prop :=
  ReadInstr .sbc sbcRows Subtracts

/-- O36. If two states differ only in P.D, ADC and SBC with the same operand give next states that differ only in P.D,
which each keeps. (10_state.md R25, 41_flag_engine_alu.md R105) -/
def Obligations.DecimalFlagDoesNotAffectArithmetic : Prop :=
  ∀ (src : ReadForm) (s t : State) (p : Byte), KeepsOther [.d] s.p p →
    (∀ i, i = Instr.adc src ∨ i = Instr.sbc src → exec i s = .next t →
      ∃ q, exec i { s with p := p } = .next { t with p := q } ∧ getFlag .d q = getFlag .d p ∧ KeepsOther [.d] t.p q)

/-- O37. For every row of their Encoding tables: the encoding; the byte at the effective address is read and written
back incremented or decremented modulo 256, N and Z are of the new byte, C and V stay, with the row's count; where
an access raises, the fault is answered and P is not updated. (R142, R145) -/
def Obligations.MemoryIncrementAndDecrement : Prop :=
  ModifyInstr .inc incRows (fun m _ r => r.toNat = (m.toNat + 1) % 256) (fun _ p r q => WritesNZ r p q) ∧
  ModifyInstr .dec decRows (fun m _ r => r.toNat = (m.toNat + 255) % 256) (fun _ p r q => WritesNZ r p q)

/-- O38. Each is one byte, 2 cycles, and always completes; the register wraps modulo 256, N and Z are of the new value,
C and V and all else stay. (R143, R144, R146, R147) -/
def Obligations.RegisterIncrementAndDecrement : Prop :=
  RegisterInstr .inx 0xE8 2 (fun s t => LoadsX t.x s t ∧ t.x.toNat = (s.x.toNat + 1) % 256) ∧
  RegisterInstr .iny 0xC8 2 (fun s t => LoadsY t.y s t ∧ t.y.toNat = (s.y.toNat + 1) % 256) ∧
  RegisterInstr .dex 0xCA 2 (fun s t => LoadsX t.x s t ∧ t.x.toNat = (s.x.toNat + 255) % 256) ∧
  RegisterInstr .dey 0x88 2 (fun s t => LoadsY t.y s t ∧ t.y.toNat = (s.y.toNat + 255) % 256)

/-- O39. For every row of their Encoding tables: the encoding; bit k of A becomes the and, or, exclusive or of bit k of
A and of the operand, N and Z are of the new A, the other flags stay, nothing else changes, with the row's count
plus the page-crossing cycle; a raised read answers the fault. (R155, R156, R157) -/
def Obligations.LogicCombinesAWithMemory : Prop :=
  ReadInstr .and andRows (fun m t u => LoadsA u.a t u ∧ ∀ k, u.a.getLsbD k = (t.a.getLsbD k && m.getLsbD k)) ∧
  ReadInstr .ora oraRows (fun m t u => LoadsA u.a t u ∧ ∀ k, u.a.getLsbD k = (t.a.getLsbD k || m.getLsbD k)) ∧
  ReadInstr .eor eorRows (fun m t u => LoadsA u.a t u ∧ ∀ k, u.a.getLsbD k = (t.a.getLsbD k ^^ m.getLsbD k))

/-- O40. For both rows of BIT's Encoding table: the encoding; Z is that A and the operand have no common bit, N and V
are bits 7 and 6 of the operand, the other flags, A and memory stay, with the row's count; a raised read answers
the fault. (R158) -/
def Obligations.BitTestsMemoryAgainstA : Prop :=
  ∀ (row : Row) (src : MemForm) (s : State), row ∈ bitRows → src.mode = row.mode →
    encode (.bit src) = row.opcode :: src.bytes ∧ (encode (.bit src)).length = row.bytes ∧
    (∀ m x t, OperandRead (.mem src) row.sensitive s m x t →
      ∃ q, exec (.bit src) s = .next { t with p := q, answer := .cycles row.cycles } ∧
        (getFlag .z q = true ↔ ∀ k, (s.a.getLsbD k && m.getLsbD k) = false) ∧
        getFlag .n q = m.getLsbD 7 ∧ getFlag .v q = m.getLsbD 6 ∧ KeepsOther [.n, .v, .z] s.p q) ∧
    (∀ f t, OperandRaises (.mem src) row.sensitive s f t →
      exec (.bit src) s = .next { t with answer := .fault f })

/-- O41. In mode ACC each is one byte, 2 cycles, and shifts A; for every memory row it reads a byte and writes it back
shifted, with the row's count; ASL and LSR shift in 0, ROL and ROR the old C; C becomes the bit shifted out, N and
Z are of the result, V and all else stay; a raised access answers the fault. (R159, R160, R161, R162) -/
def Obligations.ShiftsAndRotates : Prop :=
  ShiftInstr .asl 0x0A (memoryRows aslRows) IsShiftLeft (fun _ => false) ∧
  ShiftInstr .lsr 0x4A (memoryRows lsrRows) IsShiftRight (fun _ => false) ∧
  ShiftInstr .rol 0x2A (memoryRows rolRows) IsShiftLeft (getFlag .c) ∧
  ShiftInstr .ror 0x6A (memoryRows rorRows) IsShiftRight (getFlag .c)

/-- O42. For every row of their Encoding tables: the encoding; C is that the register is at least the operand, Z that
they are equal, N bit 7 of the difference modulo 256, V and the other flags, the register and memory stay, with the
row's count plus the page-crossing cycle; a raised read answers the fault. (R170, R171, R172) -/
def Obligations.ComparesSetFlagsOnly : Prop :=
  ReadInstr .cmp cmpRows (fun m t u => Compares t.a m t u) ∧
  ReadInstr .cpx cpxRows (fun m t u => Compares t.x m t u) ∧
  ReadInstr .cpy cpyRows (fun m t u => Compares t.y m t u)

/-- O43. Each is two bytes; if its flag has the branching value, PC becomes PC plus the signed offset modulo 65536,
with 3 cycles in the page of the next instruction and 4 in another; if not, PC stays at the next instruction, with
2 cycles; nothing else changes. (R173, R174, R175, R176, R177, R178, R179, R180, R181) -/
def Obligations.BranchesJumpFromTheNextInstruction : Prop :=
  BranchInstr .bcc 0x90 .c false ∧ BranchInstr .bcs 0xB0 .c true ∧
  BranchInstr .beq 0xF0 .z true ∧ BranchInstr .bne 0xD0 .z false ∧
  BranchInstr .bmi 0x30 .n true ∧ BranchInstr .bpl 0x10 .n false ∧
  BranchInstr .bvc 0x50 .v false ∧ BranchInstr .bvs 0x70 .v true

/-- O44. For both rows of JMP's Encoding table: the encoding; where the address is resolved, PC becomes it and nothing
else changes but what the pointer reads leave, with the row's count; where a pointer read raises, the fault is
answered. (R182) -/
def Obligations.JumpLoadsPc : Prop :=
  ∀ (row : Row) (dst : MemForm) (s : State), row ∈ jmpRows → dst.mode = row.mode →
    encode (.jmp dst) = row.opcode :: dst.bytes ∧ (encode (.jmp dst)).length = row.bytes ∧
    (∀ ea x t, resolve dst row.sensitive s = .done (ea, x) t →
      exec (.jmp dst) s = .next { t with pc := ea, answer := .cycles row.cycles }) ∧
    (∀ f t, resolve dst row.sensitive s = .raised f t → exec (.jmp dst) s = .next { t with answer := .fault f })

/-- O45. The encoding is 20, low byte, high byte; the two bytes of PC - 1 modulo 65536 are pushed high first, and PC
becomes the target, with 6 cycles; where a push raises, the fault is answered with what was done before it. (R183) -/
def Obligations.SubroutineCall : Prop :=
  ∀ (dst : Word) (s : State),
    (∃ lo hi : Byte, encode (.jsr dst) = [0x20, lo, hi] ∧ dst.toNat = 256 * hi.toNat + lo.toNat) ∧
    ∃ hi lo : Byte, 256 * hi.toNat + lo.toNat = (s.pc.toNat + 65535) % 65536 ∧
      (∀ t u, push hi s = .done () t → push lo t = .done () u →
        exec (.jsr dst) s = .next { u with pc := dst, answer := .cycles 6 }) ∧
      (∀ f t, push hi s = .raised f t → exec (.jsr dst) s = .next { t with answer := .fault f }) ∧
      (∀ t f u, push hi s = .done () t → push lo t = .raised f u →
        exec (.jsr dst) s = .next { u with answer := .fault f })

/-- O46. The encoding is 60; the two bytes pulled make a word, low byte first, and PC becomes it plus 1 modulo 65536,
with 6 cycles; where a pull raises, the fault is answered with what was done before it. (R184) -/
def Obligations.SubroutineReturn : Prop :=
  encode .rts = [0x60] ∧ ∀ s : State,
    (∀ lo t hi u, pull s = .done lo t → pull t = .done hi u →
      ∃ target : Word, target.toNat = (256 * hi.toNat + lo.toNat + 1) % 65536 ∧
        exec .rts s = .next { u with pc := target, answer := .cycles 6 }) ∧
    (∀ f t, pull s = .raised f t → exec .rts s = .next { t with answer := .fault f }) ∧
    (∀ lo t f u, pull s = .done lo t → pull t = .raised f u → exec .rts s = .next { u with answer := .fault f })

/-- O47. Where the two stack slots are plain storage, JSR completes with 6 cycles, RTS in the state it leaves completes
with 6 cycles, and PC is the address after the JSR again, with A, X, Y, S and P as they were, for every S, wrapping
included. (46_compare_branch_jump.md R183, 46_compare_branch_jump.md R184, 70_reset_and_hazards.md R246) -/
def Obligations.ReturnUndoesCall : Prop :=
  ∀ (dst : Word) (s : State), s.Plain (stackSlot s 0) → s.Plain (stackSlot s 1) →
    ∃ t u, exec (.jsr dst) s = .next t ∧ t.answer = .cycles 6 ∧ t.pc = dst ∧
      exec .rts t = .next u ∧ u.answer = .cycles 6 ∧
      u.pc = s.pc ∧ u.sp = s.sp ∧ u.a = s.a ∧ u.x = s.x ∧ u.y = s.y ∧ u.p = s.p

/-- O48. Each is one byte, 2 cycles, and always completes; the one flag gets the value, the other seven bits of P and
all else stay. (R195, R196, R197, R198, R199, R200, R201) -/
def Obligations.FlagInstructionsForceOneFlag : Prop :=
  RegisterInstr .clc 0x18 2 (Forces .c false) ∧ RegisterInstr .sec 0x38 2 (Forces .c true) ∧
  RegisterInstr .cli 0x58 2 (Forces .i false) ∧ RegisterInstr .sei 0x78 2 (Forces .i true) ∧
  RegisterInstr .clv 0xB8 2 (Forces .v false) ∧ RegisterInstr .cld 0xD8 2 (Forces .d false) ∧
  RegisterInstr .sed 0xF8 2 (Forces .d true)

/-- O49. NOP is the byte EA; from every state it completes with 2 cycles, and everything else is as it was. (R202) -/
def Obligations.NoOperationChangesNothing : Prop :=
  RegisterInstr .nop 0xEA 2 (fun s t => t = { s with answer := t.answer })

/-- O50. BRK is the byte 00, 7 cycles. Off: B becomes 1 and nothing else changes. On: PC + 1 is pushed high byte first,
B is set, P with bits 4 and 5 set is pushed, I is set, and PC becomes the word at BRK_VECTOR, low byte read first.
Where an access raises, the fault is answered with what was done before it. (R203) -/
def Obligations.SoftwareBreak : Prop :=
  encode .brk = [0x00] ∧ ∀ s : State,
    (s.cfg.brkVectoring = false → ∃ t, exec .brk s = .next t ∧ Forces .b true s t ∧ t.answer = .cycles 7) ∧
    (s.cfg.brkVectoring = true → ∃ hi lo : Byte, 256 * hi.toNat + lo.toNat = (s.pc.toNat + 1) % 65536 ∧
      (∀ f t1, push hi s = .raised f t1 → exec .brk s = .next { t1 with answer := .fault f }) ∧
      ∀ t1, push hi s = .done () t1 →
      (∀ f t2, push lo t1 = .raised f t2 → exec .brk s = .next { t2 with answer := .fault f }) ∧
      ∀ t2, push lo t1 = .done () t2 →
      (∀ f t3, push (s.p ||| 0x30) { t2 with p := s.p ||| 0x10 } = .raised f t3 →
        exec .brk s = .next { t3 with answer := .fault f }) ∧
      ∀ t3, push (s.p ||| 0x30) { t2 with p := s.p ||| 0x10 } = .done () t3 →
      (∀ f t4, memRead s.cfg.brkVector { t3 with p := s.p ||| 0x14 } = .raised f t4 →
        exec .brk s = .next { t4 with answer := .fault f }) ∧
      ∀ l t4, memRead s.cfg.brkVector { t3 with p := s.p ||| 0x14 } = .done l t4 →
      (∀ f t5, memRead (s.cfg.brkVector + 1) t4 = .raised f t5 →
        exec .brk s = .next { t5 with answer := .fault f }) ∧
      ∀ h t5, memRead (s.cfg.brkVector + 1) t4 = .done h t5 →
        ∃ target : Word, target.toNat = 256 * h.toNat + l.toNat ∧
          exec .brk s = .next { t5 with pc := target, answer := .cycles 7 })

/-- O51. RTI is the byte 40, 6 cycles: P gets N, V, D, I, Z and C of the byte pulled, B kept and bit 5 set, then PC the
word pulled, low byte first; where a pull raises, the fault is answered with what was done before it. (R204) -/
def Obligations.ReturnFromInterrupt : Prop :=
  encode .rti = [0x40] ∧ ∀ s : State,
    (∀ f t1, pull s = .raised f t1 → exec .rti s = .next { t1 with answer := .fault f }) ∧
    ∀ v t1, pull s = .done v t1 → ∃ q : Byte,
      getFlag .u q = true ∧ getFlag .b q = getFlag .b s.p ∧ (∀ f, f ≠ .u → f ≠ .b → getFlag f q = getFlag f v) ∧
      (∀ f t2, pull { t1 with p := q } = .raised f t2 → exec .rti s = .next { t2 with answer := .fault f }) ∧
      ∀ lo t2, pull { t1 with p := q } = .done lo t2 →
        (∀ f t3, pull t2 = .raised f t3 → exec .rti s = .next { t3 with answer := .fault f }) ∧
        ∀ hi t3, pull t2 = .done hi t3 →
          ∃ target : Word, target.toNat = 256 * hi.toNat + lo.toNat ∧
            exec .rti s = .next { t3 with pc := target, answer := .cycles 6 }

/-- O52. Where the three stack slots are plain storage and the vector's two bytes are storage, BRK completes with 7
cycles and RTI in the state it leaves completes with 6; PC is one past the byte after the BRK, S, A, X and Y are as
they were, N, V, D, I, Z and C too, and B and bit 5 are 1. (47_flag_ops_break.md R203, 47_flag_ops_break.md R204,
60_exceptions.md R223, 60_exceptions.md R224) -/
def Obligations.ReturnFromBreak : Prop :=
  ∀ s : State, s.cfg.brkVectoring = true →
    s.Plain (stackSlot s 0) → s.Plain (stackSlot s 1) → s.Plain (stackSlot s 2) →
    (lawAt s.map s.cfg.brkVector).onRead = .stored → (lawAt s.map (s.cfg.brkVector + 1)).onRead = .stored →
    ∃ t u, exec .brk s = .next t ∧ t.answer = .cycles 7 ∧ t.flag .i = true ∧
      exec .rti t = .next u ∧ u.answer = .cycles 6 ∧
      u.pc = s.pc + 1 ∧ u.sp = s.sp ∧ u.a = s.a ∧ u.x = s.x ∧ u.y = s.y ∧
      u.flag .b = true ∧ u.flag .u = true ∧ ∀ f, f ≠ .b → f ≠ .u → u.flag f = s.flag f

/-- O53. Where the vector's two bytes lie in storage, Reset() sets A, X, Y, S to their parameters, P to its parameter
with bit 5 set, PC to the word at RESET_VECTOR, makes exactly those two reads, answers ok, and leaves every
register specified and the environment as it was. (R240) -/
def Obligations.ResetLoadsTheParametersAndTheVector : Prop :=
  ∀ s : State, (lawAt s.map s.cfg.resetVector).onRead = .stored →
    (lawAt s.map (s.cfg.resetVector + 1)).onRead = .stored →
    ∃ pc : Word, pc.toNat = 256 * (s.byteAt (s.cfg.resetVector + 1)).toNat + (s.byteAt s.cfg.resetVector).toNat ∧
      resetPort s =
        { s with
          a := s.cfg.resetA, x := s.cfg.resetX, y := s.cfg.resetY, sp := s.cfg.resetS, p := s.cfg.resetP ||| 0x20
          pc := pc, specified := ⟨true, true, true, true, true, true⟩, answer := .resetOk
          trace := [.read s.cfg.resetVector (s.byteAt s.cfg.resetVector),
            .read (s.cfg.resetVector + 1) (s.byteAt (s.cfg.resetVector + 1))] }

/-- O54. If either vector byte is answered error, Reset() answers UnbackedMemoryAccess of that read, the five registers
hold their reset values and are specified, PC is not, and step is refused; after a debug write of PC step is not
refused. (R242) -/
def Obligations.FailedResetLeavesPcUnspecified : Prop :=
  ∀ s : State,
    ((lawAt s.map s.cfg.resetVector).onRead = .error ∨
      ((lawAt s.map s.cfg.resetVector).onRead = .stored ∧
        (lawAt s.map (s.cfg.resetVector + 1)).onRead = .error)) →
    ∃ addr, (lawAt s.map addr).onRead = .error ∧
      (addr = s.cfg.resetVector ∨ addr = s.cfg.resetVector + 1) ∧
      (resetPort s).answer = .fault (.unbackedMemoryAccess addr .read) ∧
      (resetPort s).a = s.cfg.resetA ∧ (resetPort s).x = s.cfg.resetX ∧ (resetPort s).y = s.cfg.resetY ∧
      (resetPort s).sp = s.cfg.resetS ∧ (resetPort s).p = s.cfg.resetP ||| 0x20 ∧
      (resetPort s).specified = ⟨true, true, true, true, true, false⟩ ∧
      step (resetPort s) = .refused .registersUnspecified ∧
      ∀ v : Word, ∃ t, step (debugWrite .pc v (resetPort s)) = .next t

/-- O55. For two states with the same parameters, map, storage and oracle count, Reset() leaves the same A, X, Y, S, P,
specified registers, storage, trace and answer, and the same PC if it answered ok. (70_reset_and_hazards.md R241,
10_state.md R30) -/
def Obligations.ResetDoesNotDependOnTheStateBefore : Prop :=
  ∀ s t : State, s.cfg = t.cfg → s.map = t.map → s.mem = t.mem → s.oracleCount = t.oracleCount →
    (resetPort s).a = (resetPort t).a ∧ (resetPort s).x = (resetPort t).x ∧ (resetPort s).y = (resetPort t).y ∧
    (resetPort s).sp = (resetPort t).sp ∧ (resetPort s).p = (resetPort t).p ∧
    (resetPort s).specified = (resetPort t).specified ∧ (resetPort s).mem = s.mem ∧
    (resetPort t).mem = t.mem ∧ (resetPort s).trace = (resetPort t).trace ∧
    (resetPort s).answer = (resetPort t).answer ∧
    ((resetPort s).answer = .resetOk → (resetPort s).pc = (resetPort t).pc)

/-- O56. DebugRead of a specified register is the register's field. DebugWrite's state is the state before with that
register's field written (its low byte for an 8-bit register, with bit 5 set for P), the register specified from
then on, and nothing else changed: no bus transaction. So DebugRead of it answers the value written, and of any
other specified register answers as before. (R33) -/
def Obligations.DebugPortReadsAndWritesRegisters : Prop :=
  ∀ (reg other : DebugReg) (v : Word) (s : State),
    (s.specified.a = true → (debugRead .a s).toNat = s.a.toNat) ∧
    (s.specified.x = true → (debugRead .x s).toNat = s.x.toNat) ∧
    (s.specified.y = true → (debugRead .y s).toNat = s.y.toNat) ∧
    (s.specified.sp = true → (debugRead .s s).toNat = s.sp.toNat) ∧
    (s.specified.p = true → (debugRead .p s).toNat = s.p.toNat) ∧
    (s.specified.pc = true → debugRead .pc s = s.pc) ∧
    (∃ b : Byte, b.toNat = v.toNat % 256 ∧
      debugWrite .a v s = { s with a := b, specified := { s.specified with a := true } } ∧
      debugWrite .x v s = { s with x := b, specified := { s.specified with x := true } } ∧
      debugWrite .y v s = { s with y := b, specified := { s.specified with y := true } } ∧
      debugWrite .s v s = { s with sp := b, specified := { s.specified with sp := true } } ∧
      debugWrite .p v s = { s with p := b ||| 0x20, specified := { s.specified with p := true } } ∧
      debugWrite .pc v s = { s with pc := v, specified := { s.specified with pc := true } }) ∧
    ((debugRead reg (debugWrite reg v s)).toNat = match reg with
      | .pc => v.toNat
      | .p => v.toNat % 256 ||| 32
      | .a | .x | .y | .s => v.toNat % 256) ∧
    (other ≠ reg → s.specified.has other = true → debugRead other (debugWrite reg v s) = debugRead other s) ∧
    (debugWrite reg v s).mem = s.mem ∧ (debugWrite reg v s).trace = s.trace ∧
    (debugWrite reg v s).answer = s.answer ∧ (debugWrite reg v s).cfg = s.cfg ∧ (debugWrite reg v s).map = s.map

/-- O57. From every state, an unspecified register included, what DebugRead answers for an 8-bit register is below 256.
Which value an unspecified one answers is free, and one value per register is the model's choice (log entry 10).
(00_scope.md R6, 10_state.md R13, 10_state.md R31) -/
def Obligations.DebugReadIsAsWideAsTheRegister : Prop :=
  ∀ (reg : DebugReg) (s : State), reg ≠ .pc → (debugRead reg s).toNat < 256
end

