-- ==== Sys2Proof/Laws/Flags.lean ====
section
/-!
SUPPORT. What the flag functions do to each flag of P: one lemma per function, which proofs cite and do not unfold.
-/

namespace Sys2Proof.Machine

/-- Writing a flag writes that flag and no other. -/
@[simp] theorem getFlag_putFlag (f g : Flag) (val : Bool) (p : Byte) :
    getFlag f (putFlag g val p) = if f = g then val else getFlag f p := by
  cases f <;> cases g <;> cases val <;> simp [getFlag, putFlag, flagBit, flagMaskOf]

/-- The eight flags are all of P. -/
theorem eq_of_getFlag_eq (p q : Byte) (h : ∀ f, getFlag f p = getFlag f q) : p = q := by
  apply BitVec.eq_of_getLsbD_eq
  intro i hi
  have hs : i = 0 ∨ i = 1 ∨ i = 2 ∨ i = 3 ∨ i = 4 ∨ i = 5 ∨ i = 6 ∨ i = 7 := by omega
  rcases hs with rfl | rfl | rfl | rfl | rfl | rfl | rfl | rfl
  · exact h .c
  · exact h .z
  · exact h .i
  · exact h .d
  · exact h .b
  · exact h .u
  · exact h .v
  · exact h .n

@[simp] theorem getFlag_setNZ (f : Flag) (v p : Byte) :
    getFlag f (setNZ v p) =
      if f = .z then decide (v = 0) else if f = .n then v.getLsbD 7 else getFlag f p := by
  simp [setNZ]

@[simp] theorem getFlag_addFlags (f : Flag) (first second : Byte) (sum : BitVec 9) (p : Byte) :
    getFlag f (addFlags first second sum p) =
      if f = .z then decide (sum.setWidth 8 = 0) else if f = .n then (sum.setWidth 8).getLsbD 7
      else if f = .c then sum.getLsbD 8 else if f = .v then overflows first second (sum.setWidth 8)
      else getFlag f p := by
  simp only [addFlags, getFlag_setNZ, getFlag_putFlag]

@[simp] theorem getFlag_compareFlags (f : Flag) (r m p : Byte) :
    getFlag f (compareFlags r m p) =
      if f = .n then (r - m).getLsbD 7 else if f = .z then decide (r - m = 0)
      else if f = .c then decide (m ≤ r) else getFlag f p := by
  simp only [compareFlags, getFlag_putFlag]

@[simp] theorem getFlag_bitFlags (f : Flag) (a m p : Byte) :
    getFlag f (bitFlags a m p) =
      if f = .v then m.getLsbD 6 else if f = .n then m.getLsbD 7 else if f = .z then decide (a &&& m = 0)
      else getFlag f p := by
  simp only [bitFlags, getFlag_putFlag]

@[simp] theorem getFlag_shiftFlags (f : Flag) (v : Byte) (cout : Bool) (p : Byte) :
    getFlag f (shiftFlags v cout p) =
      if f = .z then decide (v = 0) else if f = .n then v.getLsbD 7 else if f = .c then cout
      else getFlag f p := by
  simp only [shiftFlags, getFlag_setNZ, getFlag_putFlag]

end Sys2Proof.Machine
end

