-- ==== Sys2Proof/Laws/State.lean ====
section
/-!
SUPPORT. One lemma per field per update of State, true by rfl, so that no proof unfolds a record update; and what
the updates leave of the derived readings (flag, byteAt, stackAddr).
-/

namespace Sys2Proof.Machine

@[simp] theorem State.setA_a (s : State) (v : Byte) : (s.setA v).a = v := rfl
@[simp] theorem State.setA_x (s : State) (v : Byte) : (s.setA v).x = s.x := rfl
@[simp] theorem State.setA_y (s : State) (v : Byte) : (s.setA v).y = s.y := rfl
@[simp] theorem State.setA_sp (s : State) (v : Byte) : (s.setA v).sp = s.sp := rfl
@[simp] theorem State.setA_p (s : State) (v : Byte) : (s.setA v).p = s.p := rfl
@[simp] theorem State.setA_pc (s : State) (v : Byte) : (s.setA v).pc = s.pc := rfl
@[simp] theorem State.setA_specified (s : State) (v : Byte) : (s.setA v).specified = s.specified := rfl
@[simp] theorem State.setA_cfg (s : State) (v : Byte) : (s.setA v).cfg = s.cfg := rfl
@[simp] theorem State.setA_map (s : State) (v : Byte) : (s.setA v).map = s.map := rfl
@[simp] theorem State.setA_mem (s : State) (v : Byte) : (s.setA v).mem = s.mem := rfl
@[simp] theorem State.setA_oracleCount (s : State) (v : Byte) : (s.setA v).oracleCount = s.oracleCount := rfl
@[simp] theorem State.setA_trace (s : State) (v : Byte) : (s.setA v).trace = s.trace := rfl
@[simp] theorem State.setA_answer (s : State) (v : Byte) : (s.setA v).answer = s.answer := rfl

@[simp] theorem State.setA_flag (s : State) (v : Byte) (f : Flag) : (s.setA v).flag f = s.flag f := rfl
@[simp] theorem State.setA_byteAt (s : State) (v : Byte) (w : Word) : (s.setA v).byteAt w = s.byteAt w := rfl
@[simp] theorem State.setA_stackAddr (s : State) (v : Byte) : (s.setA v).stackAddr = s.stackAddr := rfl

@[simp] theorem State.setX_a (s : State) (v : Byte) : (s.setX v).a = s.a := rfl
@[simp] theorem State.setX_x (s : State) (v : Byte) : (s.setX v).x = v := rfl
@[simp] theorem State.setX_y (s : State) (v : Byte) : (s.setX v).y = s.y := rfl
@[simp] theorem State.setX_sp (s : State) (v : Byte) : (s.setX v).sp = s.sp := rfl
@[simp] theorem State.setX_p (s : State) (v : Byte) : (s.setX v).p = s.p := rfl
@[simp] theorem State.setX_pc (s : State) (v : Byte) : (s.setX v).pc = s.pc := rfl
@[simp] theorem State.setX_specified (s : State) (v : Byte) : (s.setX v).specified = s.specified := rfl
@[simp] theorem State.setX_cfg (s : State) (v : Byte) : (s.setX v).cfg = s.cfg := rfl
@[simp] theorem State.setX_map (s : State) (v : Byte) : (s.setX v).map = s.map := rfl
@[simp] theorem State.setX_mem (s : State) (v : Byte) : (s.setX v).mem = s.mem := rfl
@[simp] theorem State.setX_oracleCount (s : State) (v : Byte) : (s.setX v).oracleCount = s.oracleCount := rfl
@[simp] theorem State.setX_trace (s : State) (v : Byte) : (s.setX v).trace = s.trace := rfl
@[simp] theorem State.setX_answer (s : State) (v : Byte) : (s.setX v).answer = s.answer := rfl

@[simp] theorem State.setX_flag (s : State) (v : Byte) (f : Flag) : (s.setX v).flag f = s.flag f := rfl
@[simp] theorem State.setX_byteAt (s : State) (v : Byte) (w : Word) : (s.setX v).byteAt w = s.byteAt w := rfl
@[simp] theorem State.setX_stackAddr (s : State) (v : Byte) : (s.setX v).stackAddr = s.stackAddr := rfl

@[simp] theorem State.setY_a (s : State) (v : Byte) : (s.setY v).a = s.a := rfl
@[simp] theorem State.setY_x (s : State) (v : Byte) : (s.setY v).x = s.x := rfl
@[simp] theorem State.setY_y (s : State) (v : Byte) : (s.setY v).y = v := rfl
@[simp] theorem State.setY_sp (s : State) (v : Byte) : (s.setY v).sp = s.sp := rfl
@[simp] theorem State.setY_p (s : State) (v : Byte) : (s.setY v).p = s.p := rfl
@[simp] theorem State.setY_pc (s : State) (v : Byte) : (s.setY v).pc = s.pc := rfl
@[simp] theorem State.setY_specified (s : State) (v : Byte) : (s.setY v).specified = s.specified := rfl
@[simp] theorem State.setY_cfg (s : State) (v : Byte) : (s.setY v).cfg = s.cfg := rfl
@[simp] theorem State.setY_map (s : State) (v : Byte) : (s.setY v).map = s.map := rfl
@[simp] theorem State.setY_mem (s : State) (v : Byte) : (s.setY v).mem = s.mem := rfl
@[simp] theorem State.setY_oracleCount (s : State) (v : Byte) : (s.setY v).oracleCount = s.oracleCount := rfl
@[simp] theorem State.setY_trace (s : State) (v : Byte) : (s.setY v).trace = s.trace := rfl
@[simp] theorem State.setY_answer (s : State) (v : Byte) : (s.setY v).answer = s.answer := rfl

@[simp] theorem State.setY_flag (s : State) (v : Byte) (f : Flag) : (s.setY v).flag f = s.flag f := rfl
@[simp] theorem State.setY_byteAt (s : State) (v : Byte) (w : Word) : (s.setY v).byteAt w = s.byteAt w := rfl
@[simp] theorem State.setY_stackAddr (s : State) (v : Byte) : (s.setY v).stackAddr = s.stackAddr := rfl

@[simp] theorem State.setSp_a (s : State) (v : Byte) : (s.setSp v).a = s.a := rfl
@[simp] theorem State.setSp_x (s : State) (v : Byte) : (s.setSp v).x = s.x := rfl
@[simp] theorem State.setSp_y (s : State) (v : Byte) : (s.setSp v).y = s.y := rfl
@[simp] theorem State.setSp_sp (s : State) (v : Byte) : (s.setSp v).sp = v := rfl
@[simp] theorem State.setSp_p (s : State) (v : Byte) : (s.setSp v).p = s.p := rfl
@[simp] theorem State.setSp_pc (s : State) (v : Byte) : (s.setSp v).pc = s.pc := rfl
@[simp] theorem State.setSp_specified (s : State) (v : Byte) : (s.setSp v).specified = s.specified := rfl
@[simp] theorem State.setSp_cfg (s : State) (v : Byte) : (s.setSp v).cfg = s.cfg := rfl
@[simp] theorem State.setSp_map (s : State) (v : Byte) : (s.setSp v).map = s.map := rfl
@[simp] theorem State.setSp_mem (s : State) (v : Byte) : (s.setSp v).mem = s.mem := rfl
@[simp] theorem State.setSp_oracleCount (s : State) (v : Byte) : (s.setSp v).oracleCount = s.oracleCount := rfl
@[simp] theorem State.setSp_trace (s : State) (v : Byte) : (s.setSp v).trace = s.trace := rfl
@[simp] theorem State.setSp_answer (s : State) (v : Byte) : (s.setSp v).answer = s.answer := rfl

@[simp] theorem State.setSp_flag (s : State) (v : Byte) (f : Flag) : (s.setSp v).flag f = s.flag f := rfl
@[simp] theorem State.setSp_byteAt (s : State) (v : Byte) (w : Word) : (s.setSp v).byteAt w = s.byteAt w := rfl

@[simp] theorem State.setP_a (s : State) (v : Byte) : (s.setP v).a = s.a := rfl
@[simp] theorem State.setP_x (s : State) (v : Byte) : (s.setP v).x = s.x := rfl
@[simp] theorem State.setP_y (s : State) (v : Byte) : (s.setP v).y = s.y := rfl
@[simp] theorem State.setP_sp (s : State) (v : Byte) : (s.setP v).sp = s.sp := rfl
@[simp] theorem State.setP_p (s : State) (v : Byte) : (s.setP v).p = v := rfl
@[simp] theorem State.setP_pc (s : State) (v : Byte) : (s.setP v).pc = s.pc := rfl
@[simp] theorem State.setP_specified (s : State) (v : Byte) : (s.setP v).specified = s.specified := rfl
@[simp] theorem State.setP_cfg (s : State) (v : Byte) : (s.setP v).cfg = s.cfg := rfl
@[simp] theorem State.setP_map (s : State) (v : Byte) : (s.setP v).map = s.map := rfl
@[simp] theorem State.setP_mem (s : State) (v : Byte) : (s.setP v).mem = s.mem := rfl
@[simp] theorem State.setP_oracleCount (s : State) (v : Byte) : (s.setP v).oracleCount = s.oracleCount := rfl
@[simp] theorem State.setP_trace (s : State) (v : Byte) : (s.setP v).trace = s.trace := rfl
@[simp] theorem State.setP_answer (s : State) (v : Byte) : (s.setP v).answer = s.answer := rfl

@[simp] theorem State.setP_byteAt (s : State) (v : Byte) (w : Word) : (s.setP v).byteAt w = s.byteAt w := rfl
@[simp] theorem State.setP_stackAddr (s : State) (v : Byte) : (s.setP v).stackAddr = s.stackAddr := rfl

@[simp] theorem State.setPc_a (s : State) (v : Word) : (s.setPc v).a = s.a := rfl
@[simp] theorem State.setPc_x (s : State) (v : Word) : (s.setPc v).x = s.x := rfl
@[simp] theorem State.setPc_y (s : State) (v : Word) : (s.setPc v).y = s.y := rfl
@[simp] theorem State.setPc_sp (s : State) (v : Word) : (s.setPc v).sp = s.sp := rfl
@[simp] theorem State.setPc_p (s : State) (v : Word) : (s.setPc v).p = s.p := rfl
@[simp] theorem State.setPc_pc (s : State) (v : Word) : (s.setPc v).pc = v := rfl
@[simp] theorem State.setPc_specified (s : State) (v : Word) : (s.setPc v).specified = s.specified := rfl
@[simp] theorem State.setPc_cfg (s : State) (v : Word) : (s.setPc v).cfg = s.cfg := rfl
@[simp] theorem State.setPc_map (s : State) (v : Word) : (s.setPc v).map = s.map := rfl
@[simp] theorem State.setPc_mem (s : State) (v : Word) : (s.setPc v).mem = s.mem := rfl
@[simp] theorem State.setPc_oracleCount (s : State) (v : Word) : (s.setPc v).oracleCount = s.oracleCount := rfl
@[simp] theorem State.setPc_trace (s : State) (v : Word) : (s.setPc v).trace = s.trace := rfl
@[simp] theorem State.setPc_answer (s : State) (v : Word) : (s.setPc v).answer = s.answer := rfl

@[simp] theorem State.setPc_flag (s : State) (v : Word) (f : Flag) : (s.setPc v).flag f = s.flag f := rfl
@[simp] theorem State.setPc_byteAt (s : State) (v : Word) (w : Word) : (s.setPc v).byteAt w = s.byteAt w := rfl
@[simp] theorem State.setPc_stackAddr (s : State) (v : Word) : (s.setPc v).stackAddr = s.stackAddr := rfl

@[simp] theorem State.setMem_a (s : State) (m : List Host.Cell) : (s.setMem m).a = s.a := rfl
@[simp] theorem State.setMem_x (s : State) (m : List Host.Cell) : (s.setMem m).x = s.x := rfl
@[simp] theorem State.setMem_y (s : State) (m : List Host.Cell) : (s.setMem m).y = s.y := rfl
@[simp] theorem State.setMem_sp (s : State) (m : List Host.Cell) : (s.setMem m).sp = s.sp := rfl
@[simp] theorem State.setMem_p (s : State) (m : List Host.Cell) : (s.setMem m).p = s.p := rfl
@[simp] theorem State.setMem_pc (s : State) (m : List Host.Cell) : (s.setMem m).pc = s.pc := rfl
@[simp] theorem State.setMem_specified (s : State) (m : List Host.Cell) : (s.setMem m).specified = s.specified := rfl
@[simp] theorem State.setMem_cfg (s : State) (m : List Host.Cell) : (s.setMem m).cfg = s.cfg := rfl
@[simp] theorem State.setMem_map (s : State) (m : List Host.Cell) : (s.setMem m).map = s.map := rfl
@[simp] theorem State.setMem_mem (s : State) (m : List Host.Cell) : (s.setMem m).mem = m := rfl
@[simp] theorem State.setMem_oracleCount (s : State) (m : List Host.Cell) : (s.setMem m).oracleCount = s.oracleCount := rfl
@[simp] theorem State.setMem_trace (s : State) (m : List Host.Cell) : (s.setMem m).trace = s.trace := rfl
@[simp] theorem State.setMem_answer (s : State) (m : List Host.Cell) : (s.setMem m).answer = s.answer := rfl

@[simp] theorem State.setMem_flag (s : State) (m : List Host.Cell) (f : Flag) : (s.setMem m).flag f = s.flag f := rfl
@[simp] theorem State.setMem_stackAddr (s : State) (m : List Host.Cell) : (s.setMem m).stackAddr = s.stackAddr := rfl

@[simp] theorem State.setSpecified_a (s : State) (r : Specified) : (s.setSpecified r).a = s.a := rfl
@[simp] theorem State.setSpecified_x (s : State) (r : Specified) : (s.setSpecified r).x = s.x := rfl
@[simp] theorem State.setSpecified_y (s : State) (r : Specified) : (s.setSpecified r).y = s.y := rfl
@[simp] theorem State.setSpecified_sp (s : State) (r : Specified) : (s.setSpecified r).sp = s.sp := rfl
@[simp] theorem State.setSpecified_p (s : State) (r : Specified) : (s.setSpecified r).p = s.p := rfl
@[simp] theorem State.setSpecified_pc (s : State) (r : Specified) : (s.setSpecified r).pc = s.pc := rfl
@[simp] theorem State.setSpecified_specified (s : State) (r : Specified) : (s.setSpecified r).specified = r := rfl
@[simp] theorem State.setSpecified_cfg (s : State) (r : Specified) : (s.setSpecified r).cfg = s.cfg := rfl
@[simp] theorem State.setSpecified_map (s : State) (r : Specified) : (s.setSpecified r).map = s.map := rfl
@[simp] theorem State.setSpecified_mem (s : State) (r : Specified) : (s.setSpecified r).mem = s.mem := rfl
@[simp] theorem State.setSpecified_oracleCount (s : State) (r : Specified) : (s.setSpecified r).oracleCount = s.oracleCount := rfl
@[simp] theorem State.setSpecified_trace (s : State) (r : Specified) : (s.setSpecified r).trace = s.trace := rfl
@[simp] theorem State.setSpecified_answer (s : State) (r : Specified) : (s.setSpecified r).answer = s.answer := rfl

@[simp] theorem State.setSpecified_flag (s : State) (r : Specified) (f : Flag) : (s.setSpecified r).flag f = s.flag f := rfl
@[simp] theorem State.setSpecified_byteAt (s : State) (r : Specified) (w : Word) : (s.setSpecified r).byteAt w = s.byteAt w := rfl
@[simp] theorem State.setSpecified_stackAddr (s : State) (r : Specified) : (s.setSpecified r).stackAddr = s.stackAddr := rfl

@[simp] theorem State.drawn_a (s : State) : (s.drawn).a = s.a := rfl
@[simp] theorem State.drawn_x (s : State) : (s.drawn).x = s.x := rfl
@[simp] theorem State.drawn_y (s : State) : (s.drawn).y = s.y := rfl
@[simp] theorem State.drawn_sp (s : State) : (s.drawn).sp = s.sp := rfl
@[simp] theorem State.drawn_p (s : State) : (s.drawn).p = s.p := rfl
@[simp] theorem State.drawn_pc (s : State) : (s.drawn).pc = s.pc := rfl
@[simp] theorem State.drawn_specified (s : State) : (s.drawn).specified = s.specified := rfl
@[simp] theorem State.drawn_cfg (s : State) : (s.drawn).cfg = s.cfg := rfl
@[simp] theorem State.drawn_map (s : State) : (s.drawn).map = s.map := rfl
@[simp] theorem State.drawn_mem (s : State) : (s.drawn).mem = s.mem := rfl
@[simp] theorem State.drawn_oracleCount (s : State) : (s.drawn).oracleCount = s.oracleCount + 1 := rfl
@[simp] theorem State.drawn_trace (s : State) : (s.drawn).trace = s.trace := rfl
@[simp] theorem State.drawn_answer (s : State) : (s.drawn).answer = s.answer := rfl

@[simp] theorem State.drawn_flag (s : State) (f : Flag) : (s.drawn).flag f = s.flag f := rfl
@[simp] theorem State.drawn_byteAt (s : State) (w : Word) : (s.drawn).byteAt w = s.byteAt w := rfl
@[simp] theorem State.drawn_stackAddr (s : State) : (s.drawn).stackAddr = s.stackAddr := rfl

@[simp] theorem State.note_a (s : State) (t : BusTxn) : (s.note t).a = s.a := rfl
@[simp] theorem State.note_x (s : State) (t : BusTxn) : (s.note t).x = s.x := rfl
@[simp] theorem State.note_y (s : State) (t : BusTxn) : (s.note t).y = s.y := rfl
@[simp] theorem State.note_sp (s : State) (t : BusTxn) : (s.note t).sp = s.sp := rfl
@[simp] theorem State.note_p (s : State) (t : BusTxn) : (s.note t).p = s.p := rfl
@[simp] theorem State.note_pc (s : State) (t : BusTxn) : (s.note t).pc = s.pc := rfl
@[simp] theorem State.note_specified (s : State) (t : BusTxn) : (s.note t).specified = s.specified := rfl
@[simp] theorem State.note_cfg (s : State) (t : BusTxn) : (s.note t).cfg = s.cfg := rfl
@[simp] theorem State.note_map (s : State) (t : BusTxn) : (s.note t).map = s.map := rfl
@[simp] theorem State.note_mem (s : State) (t : BusTxn) : (s.note t).mem = s.mem := rfl
@[simp] theorem State.note_oracleCount (s : State) (t : BusTxn) : (s.note t).oracleCount = s.oracleCount := rfl
@[simp] theorem State.note_trace (s : State) (t : BusTxn) : (s.note t).trace = s.trace ++ [t] := rfl
@[simp] theorem State.note_answer (s : State) (t : BusTxn) : (s.note t).answer = s.answer := rfl

@[simp] theorem State.note_flag (s : State) (t : BusTxn) (f : Flag) : (s.note t).flag f = s.flag f := rfl
@[simp] theorem State.note_byteAt (s : State) (t : BusTxn) (w : Word) : (s.note t).byteAt w = s.byteAt w := rfl
@[simp] theorem State.note_stackAddr (s : State) (t : BusTxn) : (s.note t).stackAddr = s.stackAddr := rfl

@[simp] theorem State.beginRequest_a (s : State) : (s.beginRequest).a = s.a := rfl
@[simp] theorem State.beginRequest_x (s : State) : (s.beginRequest).x = s.x := rfl
@[simp] theorem State.beginRequest_y (s : State) : (s.beginRequest).y = s.y := rfl
@[simp] theorem State.beginRequest_sp (s : State) : (s.beginRequest).sp = s.sp := rfl
@[simp] theorem State.beginRequest_p (s : State) : (s.beginRequest).p = s.p := rfl
@[simp] theorem State.beginRequest_pc (s : State) : (s.beginRequest).pc = s.pc := rfl
@[simp] theorem State.beginRequest_specified (s : State) : (s.beginRequest).specified = s.specified := rfl
@[simp] theorem State.beginRequest_cfg (s : State) : (s.beginRequest).cfg = s.cfg := rfl
@[simp] theorem State.beginRequest_map (s : State) : (s.beginRequest).map = s.map := rfl
@[simp] theorem State.beginRequest_mem (s : State) : (s.beginRequest).mem = s.mem := rfl
@[simp] theorem State.beginRequest_oracleCount (s : State) : (s.beginRequest).oracleCount = s.oracleCount := rfl
@[simp] theorem State.beginRequest_trace (s : State) : (s.beginRequest).trace = [] := rfl
@[simp] theorem State.beginRequest_answer (s : State) : (s.beginRequest).answer = s.answer := rfl

@[simp] theorem State.beginRequest_flag (s : State) (f : Flag) : (s.beginRequest).flag f = s.flag f := rfl
@[simp] theorem State.beginRequest_byteAt (s : State) (w : Word) : (s.beginRequest).byteAt w = s.byteAt w := rfl
@[simp] theorem State.beginRequest_stackAddr (s : State) : (s.beginRequest).stackAddr = s.stackAddr := rfl

@[simp] theorem State.answered_a (s : State) (r : Answer) : (s.answered r).a = s.a := rfl
@[simp] theorem State.answered_x (s : State) (r : Answer) : (s.answered r).x = s.x := rfl
@[simp] theorem State.answered_y (s : State) (r : Answer) : (s.answered r).y = s.y := rfl
@[simp] theorem State.answered_sp (s : State) (r : Answer) : (s.answered r).sp = s.sp := rfl
@[simp] theorem State.answered_p (s : State) (r : Answer) : (s.answered r).p = s.p := rfl
@[simp] theorem State.answered_pc (s : State) (r : Answer) : (s.answered r).pc = s.pc := rfl
@[simp] theorem State.answered_specified (s : State) (r : Answer) : (s.answered r).specified = s.specified := rfl
@[simp] theorem State.answered_cfg (s : State) (r : Answer) : (s.answered r).cfg = s.cfg := rfl
@[simp] theorem State.answered_map (s : State) (r : Answer) : (s.answered r).map = s.map := rfl
@[simp] theorem State.answered_mem (s : State) (r : Answer) : (s.answered r).mem = s.mem := rfl
@[simp] theorem State.answered_oracleCount (s : State) (r : Answer) : (s.answered r).oracleCount = s.oracleCount := rfl
@[simp] theorem State.answered_trace (s : State) (r : Answer) : (s.answered r).trace = s.trace := rfl
@[simp] theorem State.answered_answer (s : State) (r : Answer) : (s.answered r).answer = r := rfl

@[simp] theorem State.answered_flag (s : State) (r : Answer) (f : Flag) : (s.answered r).flag f = s.flag f := rfl
@[simp] theorem State.answered_byteAt (s : State) (r : Answer) (w : Word) : (s.answered r).byteAt w = s.byteAt w := rfl
@[simp] theorem State.answered_stackAddr (s : State) (r : Answer) : (s.answered r).stackAddr = s.stackAddr := rfl

@[simp] theorem State.setP_flag (s : State) (v : Byte) (f : Flag) : (s.setP v).flag f = getFlag f v := rfl

@[simp] theorem State.putByte_a (s : State) (w : Word) (v : Byte) : (s.putByte w v).a = s.a := rfl
@[simp] theorem State.putByte_x (s : State) (w : Word) (v : Byte) : (s.putByte w v).x = s.x := rfl
@[simp] theorem State.putByte_y (s : State) (w : Word) (v : Byte) : (s.putByte w v).y = s.y := rfl
@[simp] theorem State.putByte_sp (s : State) (w : Word) (v : Byte) : (s.putByte w v).sp = s.sp := rfl
@[simp] theorem State.putByte_p (s : State) (w : Word) (v : Byte) : (s.putByte w v).p = s.p := rfl
@[simp] theorem State.putByte_pc (s : State) (w : Word) (v : Byte) : (s.putByte w v).pc = s.pc := rfl
@[simp] theorem State.putByte_specified (s : State) (w : Word) (v : Byte) : (s.putByte w v).specified = s.specified := rfl
@[simp] theorem State.putByte_cfg (s : State) (w : Word) (v : Byte) : (s.putByte w v).cfg = s.cfg := rfl
@[simp] theorem State.putByte_map (s : State) (w : Word) (v : Byte) : (s.putByte w v).map = s.map := rfl
@[simp] theorem State.putByte_oracleCount (s : State) (w : Word) (v : Byte) : (s.putByte w v).oracleCount = s.oracleCount := rfl
@[simp] theorem State.putByte_trace (s : State) (w : Word) (v : Byte) : (s.putByte w v).trace = s.trace := rfl
@[simp] theorem State.putByte_answer (s : State) (w : Word) (v : Byte) : (s.putByte w v).answer = s.answer := rfl

@[simp] theorem State.putByte_mem (s : State) (w : Word) (v : Byte) :
    (s.putByte w v).mem = cellWrite s.mem (cellOf s.map w) v := rfl

@[simp] theorem State.putByte_flag (s : State) (w : Word) (v : Byte) (f : Flag) : (s.putByte w v).flag f = s.flag f := rfl

end Sys2Proof.Machine
end

