-- ==== Sys2Proof/Laws/Memory.lean ====
section
/-!
SUPPORT. Storage: a read after a write of the same cell gives the byte written, every other cell reads as before
(both in every list of cells), and a write keeps the canonical form; then the same of an address.
-/

namespace Sys2Proof.Machine

theorem cellRead_cellErase (m : List Host.Cell) (a b : Nat) :
    cellRead (cellErase m a) b = if b = a then Config.unlistedByte else cellRead m b := by
  induction m with
  | nil => simp [cellErase, cellRead]
  | cons c m ih =>
    obtain ⟨k, v⟩ := c
    unfold cellErase at ih ⊢
    by_cases hk : k = a
    · subst hk
      by_cases hb : b = k
      · simpa [hb] using ih
      · have hkb : ¬ k = b := fun e => hb e.symm
        simpa [cellRead, hkb, hb] using ih
    · rw [List.filter_cons_of_pos (by simpa using hk)]
      by_cases hkb : k = b
      · subst hkb
        simp [cellRead, hk]
      · simpa [cellRead, hkb] using ih

theorem cellErase_absent (m : List Host.Cell) (a : Nat) : ∀ c ∈ cellErase m a, c.1 ≠ a := by
  intro c hc
  simpa using (List.mem_filter.1 hc).2

theorem mem_of_mem_cellErase (m : List Host.Cell) (a : Nat) (c : Host.Cell) (h : c ∈ cellErase m a) : c ∈ m :=
  List.mem_of_mem_filter h

theorem cellRead_insert (m : List Host.Cell) (a b : Nat) (v : Byte) (h : cellRead m a = Config.unlistedByte)
    (hm : ∀ c ∈ m, c.1 ≠ a) : cellRead (cellInsert m a v) b = if b = a then v else cellRead m b := by
  induction m with
  | nil => by_cases e : a = b <;> simp [cellInsert, cellRead, e, eq_comm]
  | cons c m ih =>
    obtain ⟨k, w⟩ := c
    have hk : k ≠ a := hm (k, w) (by simp)
    have ih' := ih (by simpa [cellRead, hk] using h) (fun c hc => hm c (by simp [hc]))
    by_cases hlt : a < k
    · by_cases e : a = b
      · subst e
        simp [cellInsert, hlt, cellRead]
      · simp [cellInsert, hlt, cellRead, e, eq_comm]
    · by_cases e : k = b
      · subst e
        simp [cellInsert, hlt, cellRead, hk]
      · simp [cellInsert, hlt, cellRead, e, ih']

/-- The two laws of storage in one: what any cell holds after a write. -/
theorem cellRead_cellWrite (m : List Host.Cell) (a b : Nat) (v : Byte) :
    cellRead (cellWrite m a v) b = if b = a then v else cellRead m b := by
  unfold cellWrite
  split
  · next hv => rw [cellRead_cellErase, hv]
  · rw [cellRead_insert _ _ _ _ (by simp [cellRead_cellErase]) (cellErase_absent m a), cellRead_cellErase]
    split <;> simp_all

theorem mem_cellInsert (m : List Host.Cell) (a : Nat) (v : Byte) (c : Host.Cell) :
    c ∈ cellInsert m a v ↔ c = (a, v) ∨ c ∈ m := by
  induction m with
  | nil => simp [cellInsert]
  | cons d m ih =>
    obtain ⟨k, w⟩ := d
    by_cases h : a < k
    · simp [cellInsert, h]
    · simp only [cellInsert, h, if_false, List.mem_cons, ih]; tauto

theorem cellInsert_rising (m : List Host.Cell) (a : Nat) (v : Byte)
    (hm : m.Pairwise (fun c d => c.1 < d.1)) (ha : ∀ c ∈ m, c.1 ≠ a) :
    (cellInsert m a v).Pairwise (fun c d => c.1 < d.1) := by
  induction m with
  | nil => simp [cellInsert]
  | cons d m ih =>
    obtain ⟨k, w⟩ := d
    obtain ⟨h1, h2⟩ := List.pairwise_cons.1 hm
    have hk : k ≠ a := ha (k, w) (by simp)
    by_cases h : a < k
    · simp only [cellInsert, h, if_true]
      refine List.pairwise_cons.2 ⟨?_, hm⟩
      intro c hc
      rcases List.mem_cons.1 hc with rfl | hc
      · exact h
      · exact lt_trans h (h1 c hc)
    · simp only [cellInsert, h, if_false]
      refine List.pairwise_cons.2 ⟨?_, ih h2 (fun c hc => ha c (by simp [hc]))⟩
      intro c hc
      rcases (mem_cellInsert m a v c).1 hc with rfl | hc
      · show k < a
        omega
      · exact h1 c hc

/-- A write keeps the canonical form. -/
theorem cellWrite_wf (m : List Host.Cell) (a : Nat) (v : Byte) (hm : memWf m) (ha : a < 0x10000) :
    memWf (cellWrite m a v) := by
  obtain ⟨h1, h2⟩ := hm
  have hf : (cellErase m a).Pairwise (fun c d => c.1 < d.1) := h1.filter _
  unfold cellWrite
  split
  · exact ⟨hf, fun c hc => h2 c (mem_of_mem_cellErase m a c hc)⟩
  · next hv =>
    refine ⟨cellInsert_rising _ _ _ hf (cellErase_absent m a), ?_⟩
    intro c hc
    rcases (mem_cellInsert _ a v c).1 hc with rfl | hc
    · exact ⟨ha, hv⟩
    · exact h2 c (mem_of_mem_cellErase m a c hc)

/-- Canonical storage is determined by what its cells hold. -/
theorem memWf_ext (m n : List Host.Cell) (hm : memWf m) (hn : memWf n)
    (h : ∀ a, cellRead m a = cellRead n a) : m = n := by
  have key : ∀ (l : List Host.Cell) (a : Nat), l.Pairwise (fun c d => c.1 < d.1) →
      (∀ c ∈ l, a < c.1) → cellRead l a = Config.unlistedByte := by
    intro l
    induction l with
    | nil => intros; rfl
    | cons c l ih =>
      intro a hl hc
      have : ¬ c.1 = a := by have := hc c (by simp); omega
      simp only [cellRead, this, if_false]
      exact ih a (List.pairwise_cons.1 hl).2 (fun d hd => hc d (by simp [hd]))
  induction m generalizing n with
  | nil =>
    cases n with
    | nil => rfl
    | cons c n =>
      have := h c.1
      simp only [cellRead, if_true] at this
      exact absurd this.symm (hn.2 c (by simp)).2
  | cons c m ih =>
    cases n with
    | nil =>
      have := h c.1
      simp only [cellRead, if_true] at this
      exact absurd this (hm.2 c (by simp)).2
    | cons d n =>
      obtain ⟨hm1, hm2⟩ := List.pairwise_cons.1 hm.1
      obtain ⟨hn1, hn2⟩ := List.pairwise_cons.1 hn.1
      have hc := h c.1
      have hd := h d.1
      simp only [cellRead, if_true] at hc hd
      rcases lt_trichotomy c.1 d.1 with lt | eq | lt
      · rw [if_neg (by omega), key n c.1 hn2 (fun e he => lt_trans lt (hn1 e he))] at hc
        exact absurd hc (hm.2 c (by simp)).2
      · rw [if_pos eq.symm] at hc
        have hcd : c = d := Prod.ext eq hc
        subst hcd
        congr 1
        refine ih n ⟨hm2, fun e he => hm.2 e (by simp [he])⟩ ⟨hn2, fun e he => hn.2 e (by simp [he])⟩ ?_
        intro a
        have ha := h a
        simp only [cellRead] at ha
        by_cases e : c.1 = a
        · rw [← e, key m c.1 hm2 hm1, key n c.1 hn2 hn1]
        · simpa [e] using ha
      · rw [if_neg (by omega), key m d.1 hm2 (fun e he => lt_trans lt (hm1 e he))] at hd
        exact absurd hd.symm (hn.2 d (by simp)).2

theorem cellOf_lt (map : Config.AddressMap) (addr : Word) : cellOf map addr < 0x10000 := by
  have := addr.isLt
  unfold cellOf
  split <;> omega

/-- What any address holds after a byte is put at an address. -/
theorem State.putByte_byteAt (s : State) (w u : Word) (v : Byte) :
    (s.putByte w v).byteAt u = if cellOf s.map u = cellOf s.map w then v else s.byteAt u := by
  simp [State.byteAt, cellRead_cellWrite]

theorem State.putByte_wf (s : State) (w : Word) (v : Byte) (h : memWf s.mem) : memWf (s.putByte w v).mem :=
  cellWrite_wf _ _ _ h (cellOf_lt _ _)

end Sys2Proof.Machine
end

