-- ==== Sys2Proof/Laws/Ops.lean ====
section
/-!
SUPPORT. What each shared operation can do, said once: the status byte on the stack, the memory primitives, the
stack, operands, and how an instruction ends. `Run.Post` is the form of these lemmas: what holds of the value and
state where the run is done, and of the fault and state where it is raised.
-/

namespace Sys2Proof.Machine

/-! ## The status byte on the stack -/

@[simp] theorem getFlag_pushedStatus (f : Flag) (p : Byte) :
    getFlag f (pushedStatus p) = if f = .b ∨ f = .u then true else getFlag f p := by
  cases f <;> simp [getFlag, pushedStatus, flagBit]

@[simp] theorem getFlag_pulledStatus (f : Flag) (v p : Byte) :
    getFlag f (pulledStatus v p) =
      if f = .u then true else if f = .b then getFlag .b p else getFlag f v := by
  cases f <;> simp [getFlag, pulledStatus, flagBit]

/-! ## Runs -/

@[simp] theorem Run.bind_done {α β : Type} (v : α) (s : State) (k : α → State → Run β) :
    (Run.done v s).bind k = k v s := rfl

@[simp] theorem Run.bind_raised {α β : Type} (f : Fault) (s : State) (k : α → State → Run β) :
    (Run.raised f s : Run α).bind k = .raised f s := rfl

/-- `D` holds of a run that is done, `F` of one that raised. -/
def Run.Post {α : Type} (D : α → State → Prop) (F : Fault → State → Prop) : Run α → Prop
  | .done v s => D v s
  | .raised f s => F f s

theorem Run.Post.bind {α β : Type} {D : α → State → Prop} {F : Fault → State → Prop} {E : β → State → Prop}
    {r : Run α} {k : α → State → Run β} (h : r.Post D F) (hk : ∀ v s, D v s → (k v s).Post E F) :
    (r.bind k).Post E F := by
  cases r with
  | done v s => exact hk v s h
  | raised f s => exact h

theorem Run.Post.mono {α : Type} {D D' : α → State → Prop} {F F' : Fault → State → Prop} {r : Run α}
    (h : r.Post D F) (hd : ∀ v s, D v s → D' v s) (hf : ∀ f s, F f s → F' f s) : r.Post D' F' := by
  cases r with
  | done v s => exact hd v s h
  | raised f s => exact hf f s h

/-! ## The storage an operation may change -/

/-- From storage `m` to storage `n`, only bytes of addresses in `l` whose law is to store were written. -/
def MemFrame (map : Config.AddressMap) (l : List Word) (m n : List Host.Cell) : Prop :=
  (memWf m → memWf n) ∧
    ∀ c, (∀ a ∈ l, (lawAt map a).onWrite = .store → cellOf map a ≠ c) → cellRead n c = cellRead m c

theorem MemFrame.refl (map : Config.AddressMap) (l : List Word) (m : List Host.Cell) : MemFrame map l m m :=
  ⟨id, fun _ _ => rfl⟩

theorem MemFrame.trans {map : Config.AddressMap} {l : List Word} {m n o : List Host.Cell}
    (h : MemFrame map l m n) (k : MemFrame map l n o) : MemFrame map l m o :=
  ⟨fun w => k.1 (h.1 w), fun c hc => (k.2 c hc).trans (h.2 c hc)⟩

theorem MemFrame.mono {map : Config.AddressMap} {l l' : List Word} {m n : List Host.Cell}
    (h : MemFrame map l m n) (sub : ∀ a ∈ l, a ∈ l') : MemFrame map l' m n :=
  ⟨h.1, fun c hc => h.2 c fun a ha => hc a (sub a ha)⟩

theorem MemFrame.putByte (s : State) (addr : Word) (v : Byte) (h : (lawAt s.map addr).onWrite = .store) :
    MemFrame s.map [addr] s.mem (s.putByte addr v).mem := by
  refine ⟨State.putByte_wf s addr v, fun c hc => ?_⟩
  have hne : c ≠ cellOf s.map addr := fun e => hc addr (by simp) h e.symm
  simp [State.putByte, cellRead_cellWrite, hne]

/-- Two addresses share a cell when they are equal, or both lie in internal RAM and agree in the low 11 bits. -/
theorem cellOf_eq_iff (map : Config.AddressMap) (a b : Word) : cellOf map a = cellOf map b ↔
    a = b ∨ (a.toNat < map.ramEnd ∧ b.toNat < map.ramEnd ∧ a.toNat % 2048 = b.toNat % 2048) := by
  have hab : a = b ↔ a.toNat = b.toNat := BitVec.toNat_inj.symm
  rw [hab]
  unfold cellOf
  split <;> split <;> omega

/-- Internal RAM is plain storage. -/
theorem lawAt_ram (map : Config.AddressMap) (a : Word) (h : a.toNat < map.ramEnd) :
    lawAt map a = { onRead := .stored, onWrite := .store } := by
  simp [lawAt, h]

/-- An address that stores nothing shares its byte with no address that stores. -/
theorem cellOf_ne_of_not_store (map : Config.AddressMap) (a b : Word) (ha : (lawAt map a).onWrite = .store)
    (hb : (lawAt map b).onWrite ≠ .store) : cellOf map a ≠ cellOf map b := by
  intro e
  rcases (cellOf_eq_iff map a b).1 e with rfl | ⟨-, h, -⟩
  · exact hb ha
  · exact hb (by rw [lawAt_ram map b h])

/-! ## The memory primitives -/

/-- `t` is `s` but for what the bus did: the trace, and the answers drawn. -/
def BusOnly (s t : State) : Prop := t = { s with oracleCount := t.oracleCount, trace := t.trace }

theorem BusOnly.refl (s : State) : BusOnly s s := rfl

theorem BusOnly.trans {s t u : State} (h : BusOnly s t) (k : BusOnly t u) : BusOnly s u := by
  unfold BusOnly at *
  rw [k, h]

/-- A read answers a byte or raises, and changes nothing but what the bus did. -/
theorem memRead_post (addr : Word) (s : State) :
    (memRead addr s).Post (fun _ t => BusOnly s t)
      (fun f t => BusOnly s t ∧ f = .unbackedMemoryAccess addr .read) := by
  unfold memRead
  split
  · exact rfl
  · exact rfl
  · exact ⟨rfl, rfl⟩
  · split
    · exact rfl
    · exact ⟨rfl, rfl⟩

/-- A write is done or raises; only the storage of its address may change. -/
theorem memWrite_post (addr : Word) (v : Byte) (s : State) :
    (memWrite addr v s).Post
      (fun _ t => t = { s with mem := t.mem, oracleCount := t.oracleCount, trace := t.trace } ∧
        MemFrame s.map [addr] s.mem t.mem)
      (fun f t => BusOnly s t ∧ f = .unbackedMemoryAccess addr .write) := by
  unfold memWrite
  split
  · next h => exact ⟨rfl, .putByte s addr v h⟩
  · exact ⟨rfl, .refl _ _ _⟩
  · exact ⟨rfl, rfl⟩
  · split
    · exact ⟨rfl, .refl _ _ _⟩
    · exact ⟨rfl, rfl⟩

/-- One transaction each: a read of the address, with the byte it answers. -/
theorem memRead_trace (addr : Word) (s : State) :
    (memRead addr s).Post (fun v t => t.trace = s.trace ++ [.read addr v])
      (fun _ t => t.trace = s.trace ++ [.readError addr]) := by
  unfold memRead
  split
  · simp [Run.Post]
  · simp [Run.Post]
  · simp [Run.Post]
  · split <;> simp [Run.Post]

/-- A write of the byte to the address. -/
theorem memWrite_trace (addr : Word) (v : Byte) (s : State) :
    (memWrite addr v s).Post (fun _ t => t.trace = s.trace ++ [.write addr v])
      (fun _ t => t.trace = s.trace ++ [.writeError addr v]) := by
  unfold memWrite
  split
  · simp [Run.Post]
  · simp [Run.Post]
  · simp [Run.Post]
  · split <;> simp [Run.Post]

theorem memRead_stored (addr : Word) (s : State) (h : (lawAt s.map addr).onRead = .stored) :
    memRead addr s = .done (s.byteAt addr) (s.note (.read addr (s.byteAt addr))) := by
  simp only [memRead, h]

theorem memRead_error (addr : Word) (s : State) (h : (lawAt s.map addr).onRead = .error) :
    memRead addr s = .raised (.unbackedMemoryAccess addr .read) (s.note (.readError addr)) := by
  simp only [memRead, h]

theorem memWrite_store (addr : Word) (v : Byte) (s : State) (h : (lawAt s.map addr).onWrite = .store) :
    memWrite addr v s = .done () ((s.putByte addr v).note (.write addr v)) := by
  simp only [memWrite, h]

theorem memWrite_error (addr : Word) (v : Byte) (s : State) (h : (lawAt s.map addr).onWrite = .error) :
    memWrite addr v s = .raised (.unbackedMemoryAccess addr .write) (s.note (.writeError addr v)) := by
  simp only [memWrite, h]

theorem memReadWord_post (lo hi : Word) (s : State) :
    (memReadWord lo hi s).Post (fun _ t => BusOnly s t)
      (fun f t => BusOnly s t ∧ ∃ addr, f = .unbackedMemoryAccess addr .read) := by
  have widen : ∀ (addr : Word) (u : State), BusOnly s u → (memRead addr u).Post (fun _ t => BusOnly s t)
      (fun f t => BusOnly s t ∧ ∃ addr, f = .unbackedMemoryAccess addr .read) := fun addr u hu =>
    (memRead_post addr u).mono (fun _ _ h => hu.trans h) (fun _ _ h => ⟨hu.trans h.1, _, h.2⟩)
  exact (widen lo s (.refl s)).bind fun _ t ht => (widen hi t ht).bind fun _ _ h => h

theorem memReadWord_stored (lo hi : Word) (s : State) (h1 : (lawAt s.map lo).onRead = .stored)
    (h2 : (lawAt s.map hi).onRead = .stored) :
    memReadWord lo hi s = .done (joinBytes (s.byteAt hi) (s.byteAt lo))
      ((s.note (.read lo (s.byteAt lo))).note (.read hi (s.byteAt hi))) := by
  simp [memReadWord, memRead_stored, h1, h2]

/-! ## The stack -/

/-- A push is done with S decremented and its slot written at most, or raises with nothing changed. -/
theorem push_post (v : Byte) (s : State) :
    (push v s).Post
      (fun _ t => t = { s with sp := s.sp - 1, mem := t.mem, oracleCount := t.oracleCount, trace := t.trace } ∧
        MemFrame s.map [s.stackAddr] s.mem t.mem)
      (fun f t => BusOnly s t ∧ f = .unbackedMemoryAccess s.stackAddr .write) := by
  refine (memWrite_post s.stackAddr v s).bind fun _ t h => ⟨?_, h.2⟩
  have hsp : t.sp = s.sp := by rw [h.1]
  conv_lhs => rw [h.1]
  rw [hsp]
  rfl

/-- A pull increments S, done or raised. -/
theorem pull_post (s : State) :
    (pull s).Post (fun _ t => BusOnly (s.setSp (s.sp + 1)) t)
      (fun f t => BusOnly (s.setSp (s.sp + 1)) t ∧ ∃ addr, f = .unbackedMemoryAccess addr .read) :=
  (memRead_post _ _).mono (fun _ _ h => h) fun _ _ h => ⟨h.1, _, h.2⟩

/-- A push is one write, at the address S names. -/
theorem push_trace (v : Byte) (s : State) :
    (push v s).Post (fun _ t => t.trace = s.trace ++ [.write s.stackAddr v])
      (fun _ t => t.trace = s.trace ++ [.writeError s.stackAddr v]) :=
  (memWrite_trace _ v s).bind fun _ _ h => h

/-- A pull is one read, at the address that the incremented S names. -/
theorem pull_trace (s : State) :
    (pull s).Post (fun v t => t.trace = s.trace ++ [.read (s.setSp (s.sp + 1)).stackAddr v])
      (fun _ t => t.trace = s.trace ++ [.readError (s.setSp (s.sp + 1)).stackAddr]) :=
  memRead_trace _ _

theorem push_store (v : Byte) (s : State) (h : (lawAt s.map s.stackAddr).onWrite = .store) :
    push v s = .done () (((s.putByte s.stackAddr v).note (.write s.stackAddr v)).setSp (s.sp - 1)) := by
  simp [push, memWrite_store, h]

theorem push_error (v : Byte) (s : State) (h : (lawAt s.map s.stackAddr).onWrite = .error) :
    push v s = .raised (.unbackedMemoryAccess s.stackAddr .write) (s.note (.writeError s.stackAddr v)) := by
  simp [push, memWrite_error, h]

theorem pull_stored (s : State)
    (h : (lawAt s.map (joinBytes s.cfg.stackPage (s.sp + 1))).onRead = .stored) :
    pull s = .done (s.byteAt (joinBytes s.cfg.stackPage (s.sp + 1)))
      ((s.setSp (s.sp + 1)).note
        (.read (joinBytes s.cfg.stackPage (s.sp + 1)) (s.byteAt (joinBytes s.cfg.stackPage (s.sp + 1))))) :=
  memRead_stored _ _ h

/-! ## Operands -/

/-- Resolving an address changes nothing but what the bus did. -/
theorem resolve_post (m : MemForm) (sens : Bool) (s : State) :
    (resolve m sens s).Post (fun _ t => BusOnly s t)
      (fun f t => BusOnly s t ∧ ∃ addr, f = .unbackedMemoryAccess addr .read) := by
  cases m with
  | zp | zpx | zpy | abs | abx | aby => exact BusOnly.refl s
  | ind | izx | izy => exact (memReadWord_post _ _ _).bind fun _ _ h => h

/-- Reading an operand changes nothing but what the bus did. -/
theorem operandValue_post (src : ReadForm) (sens : Bool) (s : State) :
    (operandValue src sens s).Post (fun _ t => BusOnly s t)
      (fun f t => BusOnly s t ∧ ∃ addr, f = .unbackedMemoryAccess addr .read) := by
  cases src with
  | imm => exact BusOnly.refl s
  | mem m =>
    refine (resolve_post m sens s).bind fun r t ht => ?_
    refine Run.Post.bind (D := fun _ u => BusOnly s u) ?_ fun _ _ h => h
    exact (memRead_post r.1 t).mono (fun _ _ h => ht.trans h) fun _ _ h => ⟨ht.trans h.1, _, h.2⟩

/-- The extra cycle of an address is due for a sensitive opcode only. -/
theorem resolve_extra (m : MemForm) (s : State) :
    (resolve m false s).Post (fun r _ => r.2 = false) (fun _ _ => True) := by
  cases m with
  | zp | zpx | zpy | abs | abx | aby => simp [resolve, Run.Post]
  | ind | izx | izy =>
    exact Run.Post.bind (D := fun _ _ => True) ((memReadWord_post _ _ _).mono (fun _ _ _ => trivial)
      fun _ _ _ => trivial) fun _ _ _ => by simp [Run.Post]

/-! ## Bodies -/

/-- A reading body is done with its effect on a byte and the state the bus left, or raises with nothing changed. -/
theorem readBody_post (src : ReadForm) (eff : Byte → State → State) (sens : Bool) (s : State) :
    (readBody src eff sens s).Post (fun n u => n ≤ 1 ∧ ∃ m t, BusOnly s t ∧ u = eff m t)
      (fun f u => BusOnly s u ∧ ∃ addr, f = .unbackedMemoryAccess addr .read) :=
  (operandValue_post src sens s).bind fun r t h => ⟨Bool.toNat_le r.2, r.1, t, h, rfl⟩

/-- A storing body changes the storage of one address at most, the one it resolved. -/
theorem storeBody_post (dst : MemForm) (v : Byte) (sens : Bool) (s : State) :
    (storeBody dst v sens s).Post
      (fun n u => n ≤ 1 ∧ u = { s with mem := u.mem, oracleCount := u.oracleCount, trace := u.trace } ∧
        ∃ r t, resolve dst sens s = .done r t ∧ MemFrame s.map [r.1] s.mem u.mem)
      (fun f u => BusOnly s u ∧ ∃ addr dir, f = .unbackedMemoryAccess addr dir) := by
  have hp := resolve_post dst sens s
  unfold storeBody
  cases hr : resolve dst sens s with
  | raised f t =>
    rw [hr] at hp
    exact ⟨hp.1, hp.2.imp fun _ h => ⟨_, h⟩⟩
  | done r t =>
    rw [hr] at hp
    have ht : BusOnly s t := hp
    have hw := memWrite_post r.1 v t
    rw [show t.map = s.map by rw [ht], show t.mem = s.mem by rw [ht]] at hw
    simp only [Run.bind_done]
    cases hm : memWrite r.1 v t with
    | raised f u =>
      rw [hm] at hw
      exact ⟨ht.trans hw.1, _, _, hw.2⟩
    | done _ u =>
      rw [hm] at hw
      refine ⟨Bool.toNat_le r.2, ?_, r, t, rfl, hw.2⟩
      rw [hw.1, ht]

/-- A read-modify-write changes the storage of one address at most, the one it resolved; P only where it is done. -/
theorem modifyBody_post (dst : MemForm) (f g : Byte → Byte → Byte) (sens : Bool) (s : State) :
    (modifyBody dst f g sens s).Post
      (fun n u => n ≤ 1 ∧
        (∃ m, u = { s with p := g m s.p, mem := u.mem, oracleCount := u.oracleCount, trace := u.trace }) ∧
        ∃ r t, resolve dst sens s = .done r t ∧ MemFrame s.map [r.1] s.mem u.mem)
      (fun f u => BusOnly s u ∧ ∃ addr dir, f = .unbackedMemoryAccess addr dir) := by
  have hp := resolve_post dst sens s
  unfold modifyBody
  cases hr : resolve dst sens s with
  | raised f t =>
    rw [hr] at hp
    exact ⟨hp.1, hp.2.imp fun _ h => ⟨_, h⟩⟩
  | done r t =>
    rw [hr] at hp
    have ht : BusOnly s t := hp
    have hq := memRead_post r.1 t
    simp only [Run.bind_done]
    cases hm : memRead r.1 t with
    | raised f u =>
      rw [hm] at hq
      exact ⟨ht.trans hq.1, _, _, hq.2⟩
    | done m u =>
      rw [hm] at hq
      have hu : BusOnly s u := ht.trans hq
      have hw := memWrite_post r.1 (f m u.p) u
      rw [show u.map = s.map by rw [hu], show u.mem = s.mem by rw [hu]] at hw
      simp only [Run.bind_done]
      cases hv : memWrite r.1 (f m u.p) u with
      | raised f w =>
        rw [hv] at hw
        exact ⟨hu.trans hw.1, _, _, hw.2⟩
      | done _ w =>
        rw [hv] at hw
        refine ⟨Bool.toNat_le r.2, ⟨m, ?_⟩, r, t, rfl, hw.2⟩
        have hwp : w.p = s.p := by rw [hw.1, hu]
        rw [hwp, hw.1, hu]
        rfl

/-! ## How an instruction ends -/

@[simp] theorem conclude_done (base extra : Nat) (s : State) :
    conclude base (.done extra s) = .next (s.answered (.cycles (base + extra))) := rfl

@[simp] theorem conclude_raised (base : Nat) (f : Fault) (s : State) :
    conclude base (.raised f s) = .next (s.answered (.fault f)) := rfl

/-- An instruction that an opcode encodes runs its body. -/
theorem runInstr_eq (i : Instr) (b : Byte) (body : Bool → State → Run Nat) (s : State)
    (h : i.opcode = some b) : runInstr i body s = conclude (baseCycles b) (body (sensitive b) s) := by
  simp only [runInstr, h]

/-- Where an instruction gives a next state, its body was done and the state is answered with the count, or it
raised and the state is answered with the fault. -/
theorem runInstr_next {i : Instr} {body : Bool → State → Run Nat} {s t : State}
    (h : runInstr i body s = .next t) : ∃ b, i.opcode = some b ∧
      ((∃ n u, body (sensitive b) s = .done n u ∧ t = u.answered (.cycles (baseCycles b + n))) ∨
        ∃ f u, body (sensitive b) s = .raised f u ∧ t = u.answered (.fault f)) := by
  unfold runInstr at h
  split at h
  · next b hb =>
    refine ⟨b, hb, ?_⟩
    cases hr : body (sensitive b) s with
    | done n u =>
      rw [hr] at h
      exact .inl ⟨n, u, rfl, by simpa using h.symm⟩
    | raised f u =>
      rw [hr] at h
      exact .inr ⟨f, u, rfl, by simpa using h.symm⟩
  · cases h

/-- What holds of a body's end, whichever it is, holds of the next state. -/
theorem runInstr_post {i : Instr} {body : Bool → State → Run Nat} {s t : State} {Q : State → Prop}
    (h : runInstr i body s = .next t) (hq : ∀ u r, Q u → Q (u.answered r))
    (hb : ∀ sens, (body sens s).Post (fun _ u => Q u) (fun _ u => Q u)) : Q t := by
  obtain ⟨b, -, ⟨n, u, hr, rfl⟩ | ⟨f, u, hr, rfl⟩⟩ := runInstr_next h
  · have := hb (sensitive b)
    rw [hr] at this
    exact hq _ _ this
  · have := hb (sensitive b)
    rw [hr] at this
    exact hq _ _ this

end Sys2Proof.Machine
end

