-- ==== Sys2Proof/Laws/Word.lean ====
section
/-!
SUPPORT. The byte-order and extension helpers as numbers.
-/

namespace Sys2Proof

@[simp] theorem toNat_joinBytes (hi lo : Byte) : (joinBytes hi lo).toNat = 256 * hi.toNat + lo.toNat := by
  have h : (hi ++ lo).toNat = hi.toNat <<< 8 ||| lo.toNat := BitVec.toNat_append hi lo
  have e : hi.toNat <<< 8 ||| lo.toNat = 2 ^ 8 * hi.toNat + lo.toNat := by
    rw [Nat.shiftLeft_eq, Nat.mul_comm, Nat.two_pow_add_eq_or_of_lt lo.isLt]
  exact h.trans e

@[simp] theorem toNat_lowByte (w : Word) : (lowByte w).toNat = w.toNat % 256 := by
  simp [lowByte]

@[simp] theorem toNat_highByte (w : Word) : (highByte w).toNat = w.toNat / 256 := by
  have := w.isLt
  simp only [highByte, BitVec.toNat_setWidth, BitVec.toNat_ushiftRight, Nat.shiftRight_eq_div_pow]
  omega

@[simp] theorem toNat_zeroExtend16 (v : Byte) : (zeroExtend16 v).toNat = v.toNat := by
  have := v.isLt
  simp only [zeroExtend16, BitVec.toNat_setWidth]
  omega

@[simp] theorem joinBytes_high_low (w : Word) : joinBytes (highByte w) (lowByte w) = w := by
  apply BitVec.eq_of_toNat_eq
  simp only [toNat_joinBytes, toNat_highByte, toNat_lowByte]
  omega

@[simp] theorem lowByte_joinBytes (hi lo : Byte) : lowByte (joinBytes hi lo) = lo := by
  have := lo.isLt
  apply BitVec.eq_of_toNat_eq
  simp only [toNat_joinBytes, toNat_lowByte]
  omega

@[simp] theorem highByte_joinBytes (hi lo : Byte) : highByte (joinBytes hi lo) = hi := by
  have := lo.isLt
  apply BitVec.eq_of_toNat_eq
  simp only [toNat_joinBytes, toNat_highByte]
  omega

end Sys2Proof
end

