-- ==== Sys2Proof/Laws/Fetch.lean ====
section
/-!
SUPPORT. Fetching an instruction: what it changes, what it is when its bytes lie in storage, and how a step goes on.
-/

namespace Sys2Proof.Machine

/-- `t` is `s` but for PC and what the bus did. -/
def PcAndBusOnly (s t : State) : Prop :=
  t = { s with pc := t.pc, oracleCount := t.oracleCount, trace := t.trace }

theorem PcAndBusOnly.of_busOnly {s t : State} (h : BusOnly s t) : PcAndBusOnly s t := by
  unfold PcAndBusOnly
  rw [h]

theorem PcAndBusOnly.trans {s t u : State} (h : PcAndBusOnly s t) (k : PcAndBusOnly t u) : PcAndBusOnly s u := by
  unfold PcAndBusOnly at *
  rw [k, h]

theorem PcAndBusOnly.setPc (s : State) (w : Word) : PcAndBusOnly s (s.setPc w) := rfl

/-- What a read of the fetch does, PC moved before it or not. -/
theorem memRead_fetch (addr : Word) (s t : State) (h : PcAndBusOnly s t) :
    (memRead addr t).Post (fun _ u => PcAndBusOnly s u)
      (fun f u => PcAndBusOnly s u ∧ ∃ addr, f = .unbackedMemoryAccess addr .read) :=
  (memRead_post addr t).mono (fun _ _ k => h.trans (.of_busOnly k)) fun _ _ k => ⟨h.trans (.of_busOnly k.1), _, k.2⟩

/-- Fetching operand bytes moves PC, uses the bus, and changes nothing else. -/
theorem fetchOperands_post (mode : Mode) (s : State) :
    (fetchOperands mode s).Post (fun _ t => PcAndBusOnly s t)
      (fun f t => PcAndBusOnly s t ∧ ∃ addr, f = .unbackedMemoryAccess addr .read) := by
  cases mode with
  | imp | acc | noMode => exact PcAndBusOnly.setPc s s.pc
  | imm => exact (memRead_fetch _ s _ (.setPc s _)).bind fun _ _ h => h
  | zp | zpx | zpy | izx | izy | rel =>
    exact (memRead_fetch _ s s (.setPc s s.pc)).bind fun _ t h => h.trans (.setPc t _)
  | abs | abx | aby | ind =>
    refine (memRead_fetch _ s s (.setPc s s.pc)).bind fun _ t h => ?_
    exact (memRead_fetch _ s t h).bind fun _ u k => k.trans (.setPc u _)

/-- A fetch comes to an instruction of the opcode map, or to a fault of a read; PC moves, and nothing else changes. -/
theorem fetch_post (s : State) :
    (fetch s).Post (fun i t => PcAndBusOnly s t ∧ ∃ opcode aa bb, i = assemble opcode aa bb)
      (fun f t => PcAndBusOnly s t ∧ ∃ addr, f = .unbackedMemoryAccess addr .read) := by
  refine (memRead_fetch _ s s (.setPc s s.pc)).bind fun opcode t h => ?_
  have k := fetchOperands_post (modeOf opcode) (t.setPc (t.pc + 1))
  refine (k.mono (fun _ _ k => (h.trans (.setPc t _)).trans k) fun _ _ k =>
    ⟨(h.trans (.setPc t _)).trans k.1, k.2⟩).bind fun ops u hu => ⟨hu, opcode, ops.1, ops.2, rfl⟩

/-- `n` bytes of storage at PC have been read, and PC is past them. -/
def State.advanced (s : State) (n : Nat) : State :=
  { s with
    pc := s.pc + BitVec.ofNat 16 n
    trace := s.trace ++ (List.range n).map fun k =>
      .read (s.pc + BitVec.ofNat 16 k) (s.byteAt (s.pc + BitVec.ofNat 16 k)) }

/-- The operand bytes of a mode from storage; Immediate moves PC before its read, and reads where the others do. -/
theorem fetchOperands_stored (mode : Mode) (s : State)
    (h : ∀ k, k < mode.operandBytes → (lawAt s.map (s.pc + BitVec.ofNat 16 k)).onRead = .stored)
    (hi : mode ≠ .imm) :
    fetchOperands mode s = .done
      (if mode.operandBytes = 0 then 0 else s.byteAt s.pc, if mode.operandBytes = 2 then s.byteAt (s.pc + 1) else 0)
      (s.advanced mode.operandBytes) := by
  cases mode with
  | imm => exact absurd rfl hi
  | imp | acc | noMode => simp [fetchOperands, Mode.operandBytes, State.advanced]
  | zp | zpx | zpy | izx | izy | rel =>
    have h0 : (lawAt s.map s.pc).onRead = .stored := by simpa using h 0 (by simp [Mode.operandBytes])
    simp [fetchOperands, Mode.operandBytes, memRead_stored _ _ h0, State.note, State.setPc, State.advanced]
  | abs | abx | aby | ind =>
    have h0 : (lawAt s.map s.pc).onRead = .stored := by simpa using h 0 (by simp [Mode.operandBytes])
    have h1 := h 1 (by simp [Mode.operandBytes])
    simp only [fetchOperands]
    rw [memRead_stored _ _ h0, Run.bind_done,
      memRead_stored ((s.note (.read s.pc (s.byteAt s.pc))).pc + 1) (s.note (.read s.pc (s.byteAt s.pc))) h1]
    simp [Mode.operandBytes, State.note, State.setPc, State.advanced, State.byteAt, List.range_succ]

/-- A fetch from storage: the instruction of the opcode byte at PC and its operand bytes. -/
theorem fetch_stored (s : State)
    (h : ∀ k, k < 1 + (modeOf (s.byteAt s.pc)).operandBytes →
      (lawAt s.map (s.pc + BitVec.ofNat 16 k)).onRead = .stored) :
    fetch s = .done
      (assemble (s.byteAt s.pc)
        (if (modeOf (s.byteAt s.pc)).operandBytes = 0 then 0 else s.byteAt (s.pc + 1))
        (if (modeOf (s.byteAt s.pc)).operandBytes = 2 then s.byteAt (s.pc + 2) else 0))
      (s.advanced (1 + (modeOf (s.byteAt s.pc)).operandBytes)) := by
  have h0 : (lawAt s.map s.pc).onRead = .stored := by simpa using h 0 (by omega)
  have hr : (s.note (.read s.pc (s.byteAt s.pc))).setPc ((s.note (.read s.pc (s.byteAt s.pc))).pc + 1) =
      s.advanced 1 := by
    simp [State.advanced, State.note, State.setPc]
  have e2 : s.pc + 1 + 1 = s.pc + 2 := by bv_omega
  unfold fetch
  rw [memRead_stored _ _ h0, Run.bind_done, hr]
  generalize modeOf (s.byteAt s.pc) = mode at h
  by_cases hi : mode = .imm
  · subst hi
    have h1 := h 1 (by simp [Mode.operandBytes])
    simp only [fetchOperands]
    rw [memRead_stored ((s.advanced 1).pc) ((s.advanced 1).setPc ((s.advanced 1).pc + 1)) h1]
    simp [Mode.operandBytes, State.note, State.setPc, State.advanced, State.byteAt, List.range_succ]
    exact e2
  · rw [fetchOperands_stored mode (s.advanced 1) ?_ hi]
    · have hb : ∀ w, (s.advanced 1).byteAt w = s.byteAt w := fun _ => rfl
      have hp : (s.advanced 1).pc = s.pc + 1 := rfl
      have ha : (s.advanced 1).advanced mode.operandBytes = s.advanced (1 + mode.operandBytes) := by
        have hk : ∀ k, s.pc + BitVec.ofNat 16 1 + BitVec.ofNat 16 k = s.pc + BitVec.ofNat 16 (1 + k) := by
          intro k
          rw [BitVec.add_assoc, BitVec.ofNat_add]
        simp only [State.advanced, State.byteAt, hk, List.append_assoc, List.range_add, List.map_append,
          List.map_map, Function.comp_def]
      simp only [Run.bind_done, hb, hp, e2, ha]
    · intro k hk
      have := h (1 + k) (by omega)
      rw [BitVec.ofNat_add, ← BitVec.add_assoc] at this
      exact this

/-- A step of a machine whose registers are all specified is its fetch and what the fetch comes to. -/
theorem step_eq (s : State) (h : s.specified.all = true) : step s = afterFetch exec (fetch s.beginRequest) := by
  simp [step, h]

end Sys2Proof.Machine
end

