-- ==== Sys2Proof/Laws/PerInstr.lean ====
section
/-!
SUPPORT. Statements made per constructor of Instr. `Encodable` is about an instruction as syntax: the two listings of
spec/30_encoding.md R62, by opcode and by mnemonic, agree on it.
-/

namespace Sys2Proof.Laws.Encodable

/-- An instruction is well formed exactly when it has an opcode byte; then the opcode map gives back its operation and
its mode, and its operand bytes are as many as the mode has (R57, R62). -/
def Statement (i : Instr) : Prop :=
  (i.wellFormed = true ↔ i.opcode.isSome = true) ∧
    ∀ b, i.opcode = some b →
      operationOf b = i.operation ∧ modeOf b = i.mode ∧ i.operandBytes.length = i.mode.operandBytes

theorem of_opcode {i : Instr} {b : Byte} (ho : i.opcode = some b) (hw : i.wellFormed = true)
    (h : operationOf b = i.operation) (hm : modeOf b = i.mode)
    (hn : i.operandBytes.length = i.mode.operandBytes) : Statement i := by
  refine ⟨by simp [ho, hw], fun c hc => ?_⟩
  obtain rfl : b = c := Option.some.inj (ho.symm.trans hc)
  exact ⟨h, hm, hn⟩

theorem of_no_opcode {i : Instr} (ho : i.opcode = none) (hw : i.wellFormed = false) : Statement i :=
  ⟨by simp [ho, hw], fun b hb => by simp [ho] at hb⟩

/-- The 105 unsupported values have no operation and no mode in the opcode map. -/
theorem unsupported_entry : ∀ b : Byte, unsupportedOpcodes.contains b = true →
    operationOf b = .unsupported ∧ modeOf b = .noMode := by
  decide +kernel

theorem tax : Statement .tax := of_opcode rfl rfl rfl rfl rfl

theorem tay : Statement .tay := of_opcode rfl rfl rfl rfl rfl

theorem txa : Statement .txa := of_opcode rfl rfl rfl rfl rfl

theorem tya : Statement .tya := of_opcode rfl rfl rfl rfl rfl

theorem tsx : Statement .tsx := of_opcode rfl rfl rfl rfl rfl

theorem txs : Statement .txs := of_opcode rfl rfl rfl rfl rfl

theorem lda (src : ReadForm) : Statement (.lda src) := by
  rcases src with _ | m
  · exact of_opcode rfl rfl rfl rfl rfl
  · cases m <;> first | exact of_opcode rfl rfl rfl rfl rfl | exact of_no_opcode rfl rfl

theorem ldx (src : ReadForm) : Statement (.ldx src) := by
  rcases src with _ | m
  · exact of_opcode rfl rfl rfl rfl rfl
  · cases m <;> first | exact of_opcode rfl rfl rfl rfl rfl | exact of_no_opcode rfl rfl

theorem ldy (src : ReadForm) : Statement (.ldy src) := by
  rcases src with _ | m
  · exact of_opcode rfl rfl rfl rfl rfl
  · cases m <;> first | exact of_opcode rfl rfl rfl rfl rfl | exact of_no_opcode rfl rfl

theorem sta (dst : MemForm) : Statement (.sta dst) := by
  cases dst <;> first | exact of_opcode rfl rfl rfl rfl rfl | exact of_no_opcode rfl rfl

theorem stx (dst : MemForm) : Statement (.stx dst) := by
  cases dst <;> first | exact of_opcode rfl rfl rfl rfl rfl | exact of_no_opcode rfl rfl

theorem sty (dst : MemForm) : Statement (.sty dst) := by
  cases dst <;> first | exact of_opcode rfl rfl rfl rfl rfl | exact of_no_opcode rfl rfl

theorem pha : Statement .pha := of_opcode rfl rfl rfl rfl rfl

theorem php : Statement .php := of_opcode rfl rfl rfl rfl rfl

theorem pla : Statement .pla := of_opcode rfl rfl rfl rfl rfl

theorem plp : Statement .plp := of_opcode rfl rfl rfl rfl rfl

theorem adc (src : ReadForm) : Statement (.adc src) := by
  rcases src with _ | m
  · exact of_opcode rfl rfl rfl rfl rfl
  · cases m <;> first | exact of_opcode rfl rfl rfl rfl rfl | exact of_no_opcode rfl rfl

theorem sbc (src : ReadForm) : Statement (.sbc src) := by
  rcases src with _ | m
  · exact of_opcode rfl rfl rfl rfl rfl
  · cases m <;> first | exact of_opcode rfl rfl rfl rfl rfl | exact of_no_opcode rfl rfl

theorem inc (dst : MemForm) : Statement (.inc dst) := by
  cases dst <;> first | exact of_opcode rfl rfl rfl rfl rfl | exact of_no_opcode rfl rfl

theorem inx : Statement .inx := of_opcode rfl rfl rfl rfl rfl

theorem iny : Statement .iny := of_opcode rfl rfl rfl rfl rfl

theorem dec (dst : MemForm) : Statement (.dec dst) := by
  cases dst <;> first | exact of_opcode rfl rfl rfl rfl rfl | exact of_no_opcode rfl rfl

theorem dex : Statement .dex := of_opcode rfl rfl rfl rfl rfl

theorem dey : Statement .dey := of_opcode rfl rfl rfl rfl rfl

theorem and (src : ReadForm) : Statement (.and src) := by
  rcases src with _ | m
  · exact of_opcode rfl rfl rfl rfl rfl
  · cases m <;> first | exact of_opcode rfl rfl rfl rfl rfl | exact of_no_opcode rfl rfl

theorem ora (src : ReadForm) : Statement (.ora src) := by
  rcases src with _ | m
  · exact of_opcode rfl rfl rfl rfl rfl
  · cases m <;> first | exact of_opcode rfl rfl rfl rfl rfl | exact of_no_opcode rfl rfl

theorem eor (src : ReadForm) : Statement (.eor src) := by
  rcases src with _ | m
  · exact of_opcode rfl rfl rfl rfl rfl
  · cases m <;> first | exact of_opcode rfl rfl rfl rfl rfl | exact of_no_opcode rfl rfl

theorem bit (src : MemForm) : Statement (.bit src) := by
  cases src <;> first | exact of_opcode rfl rfl rfl rfl rfl | exact of_no_opcode rfl rfl

theorem asl (dst : ShiftForm) : Statement (.asl dst) := by
  rcases dst with _ | m
  · exact of_opcode rfl rfl rfl rfl rfl
  · cases m <;> first | exact of_opcode rfl rfl rfl rfl rfl | exact of_no_opcode rfl rfl

theorem lsr (dst : ShiftForm) : Statement (.lsr dst) := by
  rcases dst with _ | m
  · exact of_opcode rfl rfl rfl rfl rfl
  · cases m <;> first | exact of_opcode rfl rfl rfl rfl rfl | exact of_no_opcode rfl rfl

theorem rol (dst : ShiftForm) : Statement (.rol dst) := by
  rcases dst with _ | m
  · exact of_opcode rfl rfl rfl rfl rfl
  · cases m <;> first | exact of_opcode rfl rfl rfl rfl rfl | exact of_no_opcode rfl rfl

theorem ror (dst : ShiftForm) : Statement (.ror dst) := by
  rcases dst with _ | m
  · exact of_opcode rfl rfl rfl rfl rfl
  · cases m <;> first | exact of_opcode rfl rfl rfl rfl rfl | exact of_no_opcode rfl rfl

theorem cmp (src : ReadForm) : Statement (.cmp src) := by
  rcases src with _ | m
  · exact of_opcode rfl rfl rfl rfl rfl
  · cases m <;> first | exact of_opcode rfl rfl rfl rfl rfl | exact of_no_opcode rfl rfl

theorem cpx (src : ReadForm) : Statement (.cpx src) := by
  rcases src with _ | m
  · exact of_opcode rfl rfl rfl rfl rfl
  · cases m <;> first | exact of_opcode rfl rfl rfl rfl rfl | exact of_no_opcode rfl rfl

theorem cpy (src : ReadForm) : Statement (.cpy src) := by
  rcases src with _ | m
  · exact of_opcode rfl rfl rfl rfl rfl
  · cases m <;> first | exact of_opcode rfl rfl rfl rfl rfl | exact of_no_opcode rfl rfl

theorem bcc (off : Byte) : Statement (.bcc off) := of_opcode rfl rfl rfl rfl rfl

theorem bcs (off : Byte) : Statement (.bcs off) := of_opcode rfl rfl rfl rfl rfl

theorem beq (off : Byte) : Statement (.beq off) := of_opcode rfl rfl rfl rfl rfl

theorem bmi (off : Byte) : Statement (.bmi off) := of_opcode rfl rfl rfl rfl rfl

theorem bne (off : Byte) : Statement (.bne off) := of_opcode rfl rfl rfl rfl rfl

theorem bpl (off : Byte) : Statement (.bpl off) := of_opcode rfl rfl rfl rfl rfl

theorem bvc (off : Byte) : Statement (.bvc off) := of_opcode rfl rfl rfl rfl rfl

theorem bvs (off : Byte) : Statement (.bvs off) := of_opcode rfl rfl rfl rfl rfl

theorem jmp (dst : MemForm) : Statement (.jmp dst) := by
  cases dst <;> first | exact of_opcode rfl rfl rfl rfl rfl | exact of_no_opcode rfl rfl

theorem jsr (dst : Word) : Statement (.jsr dst) := of_opcode rfl rfl rfl rfl rfl

theorem rts : Statement .rts := of_opcode rfl rfl rfl rfl rfl

theorem clc : Statement .clc := of_opcode rfl rfl rfl rfl rfl

theorem sec : Statement .sec := of_opcode rfl rfl rfl rfl rfl

theorem cli : Statement .cli := of_opcode rfl rfl rfl rfl rfl

theorem sei : Statement .sei := of_opcode rfl rfl rfl rfl rfl

theorem clv : Statement .clv := of_opcode rfl rfl rfl rfl rfl

theorem cld : Statement .cld := of_opcode rfl rfl rfl rfl rfl

theorem sed : Statement .sed := of_opcode rfl rfl rfl rfl rfl

theorem nop : Statement .nop := of_opcode rfl rfl rfl rfl rfl

theorem brk : Statement .brk := of_opcode rfl rfl rfl rfl rfl

theorem rti : Statement .rti := of_opcode rfl rfl rfl rfl rfl

theorem unsupported (opcode : Byte) : Statement (.unsupported opcode) := by
  cases h : unsupportedOpcodes.contains opcode with
  | true =>
    exact of_opcode (b := opcode) (by simp only [Instr.opcode, h]; rfl) h
      (unsupported_entry opcode h).1 (unsupported_entry opcode h).2 rfl
  | false => exact of_no_opcode (by simp only [Instr.opcode, h]; rfl) h

end Sys2Proof.Laws.Encodable
end

