-- ==== Sys2Proof/Tests/Slice0.lean ====
section
/-!
SUPPORT. The model's own tests. WellFormed refuses a term for each of its checks; every constructor is decoded from a
word written out from spec/30_encoding.md R62 and the Encoding tables; single steps, whose expected results are the
vectors of spec/95_test_vectors.md; and for every statement with hypotheses a witness that they can be met together.
-/

namespace Sys2Proof.Tests
open Sys2Proof.Machine Sys2Proof.Claims

/-! ## Helpers -/

/-- The machine of a vector: registers, PC, and bytes placed in plain storage. -/
def machine (a x y sp p : Byte) (pc : Word) (cells : List (Word × Byte)) : State :=
  cells.foldl (fun s c => s.putByte c.1 c.2)
    { State.reset with a := a, x := x, y := y, sp := sp, p := p, pc := pc, answer := .nothing, trace := [] }

/-- The same machine in another environment. -/
def within (map : Config.AddressMap) (s : State) : State := { s with map := map }

/-- The same machine with `BRK_VECTORING = on`. -/
def vectoring (s : State) : State := { s with cfg := { s.cfg with brkVectoring := true } }

/-- What a step comes to: the registers, the answer and the bus transactions in order. -/
def shows (o : Host.Outcome State Fault Refusal) (a x y sp p : Byte) (pc : Word) (answer : Answer)
    (trace : List BusTxn) : Bool :=
  match o with
  | .next t => t.a = a && t.x = x && t.y = y && t.sp = sp && t.p = p && t.pc = pc && t.answer = answer && t.trace = trace
  | .fault _ => false
  | .refused _ => false

/-- The outcome is a next state. -/
def isNext (o : Host.Outcome State Fault Refusal) : Bool :=
  match o with
  | .next _ => true
  | .fault _ => false
  | .refused _ => false

/-- The outcome is the given refusal. -/
def isRefused (o : Host.Outcome State Fault Refusal) (r : Refusal) : Bool :=
  match o with
  | .next _ => false
  | .fault _ => false
  | .refused q => q = r

/-- A run is done. -/
def isDone {α : Type} (r : Run α) : Bool :=
  match r with
  | .done _ _ => true
  | .raised _ _ => false

/-- A run raised. -/
def isRaised {α : Type} (r : Run α) : Bool := !isDone r

/-- The state a run ends in. -/
def endOf {α : Type} (r : Run α) : State :=
  match r with
  | .done _ s => s
  | .raised _ s => s

/-- Internal RAM only, the cartridge range unbacked. -/
def ramOnly : Config.AddressMap := { ramEnd := 0x0800, ioEnd := 0x0800, cartridge := [] }

/-- RAM with mirrors, the I/O window, then plain storage at 6000, read-only storage at 8000 and a window of which
nothing is known at C000; the rest is unbacked. -/
def mixed : Config.AddressMap where
  ramEnd := 0x2000
  ioEnd := 0x4020
  cartridge :=
    [{ first := 0x6000, last := 0x7FFF, law := { onRead := .stored, onWrite := .store } },
     { first := 0x8000, last := 0xBFFF, law := { onRead := .stored, onWrite := .discard } },
     { first := 0xC000, last := 0xFFFF, law := { onRead := .anyAnswer, onWrite := .anyAnswer } }]

/-- Plain storage from one address to another, and nothing else. -/
def only (first last : Nat) : Config.AddressMap where
  ramEnd := 0
  ioEnd := 0
  cartridge := [{ first := first, last := last, law := { onRead := .stored, onWrite := .store } }]

/-! ## WellFormed -/

/-- One ill-formed term for each list of modes, and an opcode value that R65 does not list. -/
theorem test_wellFormed_refuses :
    (Instr.lda (.mem (.zpy 0x10))).wellFormed = false ∧ (Instr.ldx (.mem (.zpx 0x10))).wellFormed = false ∧
    (Instr.ldy (.mem (.aby 0x1234))).wellFormed = false ∧ (Instr.sta (.ind 0x1234)).wellFormed = false ∧
    (Instr.stx (.aby 0x1234)).wellFormed = false ∧ (Instr.sty (.abx 0x1234)).wellFormed = false ∧
    (Instr.inc (.izx 0x10)).wellFormed = false ∧ (Instr.asl (.mem (.aby 0x1234))).wellFormed = false ∧
    (Instr.bit (.zpx 0x10)).wellFormed = false ∧ (Instr.cpx (.mem (.zpx 0x10))).wellFormed = false ∧
    (Instr.jmp (.zp 0x10)).wellFormed = false ∧ (Instr.unsupported 0xEA).wellFormed = false := by decide

/-- A term that is no instruction has no bytes and no meaning. -/
theorem test_ill_formed_has_no_meaning : encode (.jmp (.zp 0x10)) = [] ∧
    isRefused (exec (.jmp (.zp 0x10)) State.reset) .noSuchForm = true := by decide

/-! ## Decoding -/

/-- The words of transfers, loads and stores (R110 to R121), the opcode byte bit by bit, the operand low byte first. -/
theorem test_decode_transfer :
    decode [0b10101010] = .ok .tax [] ∧
    decode [0b10101000] = .ok .tay [] ∧
    decode [0b10001010] = .ok .txa [] ∧
    decode [0b10011000] = .ok .tya [] ∧
    decode [0b10111010] = .ok .tsx [] ∧
    decode [0b10011010] = .ok .txs [] ∧
    decode [0b10101001, 0x80] = .ok (.lda (.imm 0x80)) [] ∧
    decode [0b10110110, 0x10] = .ok (.ldx (.mem (.zpy 0x10))) [] ∧
    decode [0b10111100, 0xFF, 0x20] = .ok (.ldy (.mem (.abx 0x20FF))) [] ∧
    decode [0b10010001, 0x40] = .ok (.sta (.izy 0x40)) [] ∧
    decode [0b10001110, 0x34, 0x12] = .ok (.stx (.abs 0x1234)) [] ∧
    decode [0b10010100, 0xFE] = .ok (.sty (.zpx 0xFE)) [] := by decide

/-- The words of the stack (R130 to R133), the opcode byte bit by bit, the operand low byte first. -/
theorem test_decode_stack :
    decode [0b01001000] = .ok .pha [] ∧
    decode [0b00001000] = .ok .php [] ∧
    decode [0b01101000] = .ok .pla [] ∧
    decode [0b00101000] = .ok .plp [] := by decide

/-- The words of arithmetic (R140 to R147), the opcode byte bit by bit, the operand low byte first. -/
theorem test_decode_arithmetic :
    decode [0b01100001, 0x20] = .ok (.adc (.mem (.izx 0x20))) [] ∧
    decode [0b11111001, 0x00, 0x03] = .ok (.sbc (.mem (.aby 0x0300))) [] ∧
    decode [0b11100110, 0x10] = .ok (.inc (.zp 0x10)) [] ∧
    decode [0b11101000] = .ok .inx [] ∧
    decode [0b11001000] = .ok .iny [] ∧
    decode [0b11011110, 0x01, 0x80] = .ok (.dec (.abx 0x8001)) [] ∧
    decode [0b11001010] = .ok .dex [] ∧
    decode [0b10001000] = .ok .dey [] := by decide

/-- The words of logic, bit test, shifts (R155 to R162), the opcode byte bit by bit, the operand low byte first. -/
theorem test_decode_logic :
    decode [0b00110001, 0x40] = .ok (.and (.mem (.izy 0x40))) [] ∧
    decode [0b00001101, 0x34, 0x12] = .ok (.ora (.mem (.abs 0x1234))) [] ∧
    decode [0b01010101, 0x10] = .ok (.eor (.mem (.zpx 0x10))) [] ∧
    decode [0b00100100, 0x10] = .ok (.bit (.zp 0x10)) [] ∧
    decode [0b00001010] = .ok (.asl .acc) [] ∧
    decode [0b01010110, 0x10] = .ok (.lsr (.mem (.zpx 0x10))) [] ∧
    decode [0b00101110, 0x34, 0x12] = .ok (.rol (.mem (.abs 0x1234))) [] ∧
    decode [0b01111110, 0xFF, 0x12] = .ok (.ror (.mem (.abx 0x12FF))) [] := by decide

/-- The words of compares, branches, jumps (R170 to R184), the opcode byte bit by bit, the operand low byte first. -/
theorem test_decode_control :
    decode [0b11011001, 0xFF, 0xFF] = .ok (.cmp (.mem (.aby 0xFFFF))) [] ∧
    decode [0b11100000, 0x01] = .ok (.cpx (.imm 0x01)) [] ∧
    decode [0b11001100, 0x34, 0x12] = .ok (.cpy (.mem (.abs 0x1234))) [] ∧
    decode [0b10010000, 0xFD] = .ok (.bcc 0xFD) [] ∧
    decode [0b10110000, 0x02] = .ok (.bcs 0x02) [] ∧
    decode [0b11110000, 0x7F] = .ok (.beq 0x7F) [] ∧
    decode [0b00110000, 0x80] = .ok (.bmi 0x80) [] ∧
    decode [0b11010000, 0x10] = .ok (.bne 0x10) [] ∧
    decode [0b00010000, 0xFE] = .ok (.bpl 0xFE) [] ∧
    decode [0b01010000, 0x01] = .ok (.bvc 0x01) [] ∧
    decode [0b01110000, 0x01] = .ok (.bvs 0x01) [] ∧
    decode [0b01101100, 0xFF, 0x02] = .ok (.jmp (.ind 0x02FF)) [] ∧
    decode [0b00100000, 0x34, 0x12] = .ok (.jsr 0x1234) [] ∧
    decode [0b01100000] = .ok .rts [] := by decide

/-- The words of flags, no operation, break, return (R195 to R204), the opcode byte bit by bit, the operand low byte first. -/
theorem test_decode_flags :
    decode [0b00011000] = .ok .clc [] ∧
    decode [0b00111000] = .ok .sec [] ∧
    decode [0b01011000] = .ok .cli [] ∧
    decode [0b01111000] = .ok .sei [] ∧
    decode [0b10111000] = .ok .clv [] ∧
    decode [0b11011000] = .ok .cld [] ∧
    decode [0b11111000] = .ok .sed [] ∧
    decode [0b11101010] = .ok .nop [] ∧
    decode [0b00000000] = .ok .brk [] ∧
    decode [0b01000000] = .ok .rti [] := by decide

/-- The words of the unsupported opcodes (R65), the opcode byte bit by bit, the operand low byte first. -/
theorem test_decode_unsupported :
    decode [0b00000010] = .ok (.unsupported 0x02) [] ∧
    decode [0b10000000] = .ok (.unsupported 0x80) [] ∧
    decode [0b11111111] = .ok (.unsupported 0xFF) [] := by decide

/-- Too few bytes are rejected by name. -/
theorem test_decode_rejects : decode [] = .rejected .noBytes ∧ decode [0xA9] = .rejected (.missingOperand 0xA9) ∧
    decode [0x4C, 0x78] = .rejected (.missingOperand 0x4C) := by decide

/-- The table's words: `LDA $20FF,X` as 24 bits, and with its operand bits not given. -/
theorem test_decodeTableWord : decodeTableWord 24 0x20FFBD = some (.lda (.mem (.abx 0x20FF))) ∧
    decodeTableWord 8 0xBD = some (.lda (.mem (.abx 0x0000))) ∧
    decodeTableWord 16 0xF9D0 = some (.bne 0xF9) := by decide

/-! ## Reset and the ports -/

/-- Vectors K1 and K3 of spec/95_test_vectors.md: A, X, Y, S, P, PC and the two reads. -/
theorem test_reset_K1 :
    shows (.next (resetPort (machine 0x12 0x00 0x00 0x40 0xE1 0x0000 [(0xFFFD, 0x80)])))
      0x00 0x00 0x00 0xFD 0x34 0x8000 .resetOk [.read 0xFFFC 0x00, .read 0xFFFD 0x80] = true := by decide

/-- Vector J11: the second vector read fails. -/
theorem test_reset_J11 :
    (resetPort (within (only 0xFFFC 0xFFFC) State.reset)).answer =
      .fault (.unbackedMemoryAccess 0xFFFD .read) ∧
    isRefused (step (resetPort (within (only 0xFFFC 0xFFFC) State.reset))) .registersUnspecified = true := by
  decide

/-- Vectors L1 and L2. -/
theorem test_debug_L1_L2 : (debugWrite .p 0x00 State.reset).p = 0x20 ∧ (debugWrite .p 0xDF State.reset).p = 0xFF := by
  decide

/-- Vector L3: the opcode is fetched from the PC written. -/
theorem test_debug_L3 : shows (step (debugWrite .pc 0x1234 (machine 0 0 0 0xFD 0x24 0x8000 [(0x1234, 0xEA)])))
    0x00 0x00 0x00 0xFD 0x24 0x1235 (.cycles 2) [.read 0x1234 0xEA] = true := by decide

/-- A word placed by `withFetchWord` is what the next step runs: `LDA #$80` right after reset. -/
theorem test_withFetchWord : shows (step (State.reset.withFetchWord 16 0x80A9))
    0x80 0x00 0x00 0xFD 0xB4 0x0002 (.cycles 2) [.read 0x0000 0xA9, .read 0x0001 0x80] = true := by decide

/-! ## Single steps -/

/-! ### Vectors: transfers, loads and stores -/

/-- Vector A6 of spec/95_test_vectors.md. -/
theorem test_lda_A6 : shows (step (machine 0x00 0x01 0x00 0xFD 0x24 0x8000
      [(0x8000, 0xBD), (0x8001, 0xFF), (0x8002, 0x20), (0x2100, 0x42)]))
    0x42 0x01 0x00 0xFD 0x24 0x8003 (.cycles 5)
    [.read 0x8000 0xBD, .read 0x8001 0xFF, .read 0x8002 0x20, .read 0x2100 0x42] = true := by decide

/-- Vector A12 of spec/95_test_vectors.md. -/
theorem test_lda_A12 : shows (step (machine 0x00 0x00 0x01 0xFD 0x24 0x8000
      [(0x8000, 0xB1), (0x8001, 0xFF), (0x0000, 0x12), (0x00FF, 0xFF), (0x0100, 0xEE), (0x1300, 0x88)]))
    0x88 0x00 0x01 0xFD 0xA4 0x8002 (.cycles 6)
    [.read 0x8000 0xB1, .read 0x8001 0xFF, .read 0x00FF 0xFF, .read 0x0000 0x12, .read 0x1300 0x88] = true := by decide

/-- Vector A4 of spec/95_test_vectors.md. -/
theorem test_ldx_A4 : shows (step (machine 0x00 0x00 0x20 0xFD 0x24 0x8000
      [(0x8000, 0xB6), (0x8001, 0xF0), (0x0010, 0x80), (0x0110, 0xEE)]))
    0x00 0x80 0x20 0xFD 0xA4 0x8002 (.cycles 4)
    [.read 0x8000 0xB6, .read 0x8001 0xF0, .read 0x0010 0x80] = true := by decide

/-- Vector B9 of spec/95_test_vectors.md. -/
theorem test_ldy_B9 : shows (step (machine 0x00 0x00 0x05 0xFD 0x24 0x8000
      [(0x8000, 0xA0), (0x8001, 0x00)]))
    0x00 0x00 0x00 0xFD 0x26 0x8002 (.cycles 2)
    [.read 0x8000 0xA0, .read 0x8001 0x00] = true := by decide

/-- Vector A8 of spec/95_test_vectors.md. -/
theorem test_sta_A8 : shows (step (machine 0x5A 0x01 0x00 0xFD 0x24 0x8000
      [(0x8000, 0x9D), (0x8001, 0xFF), (0x8002, 0x20)]))
    0x5A 0x01 0x00 0xFD 0x24 0x8003 (.cycles 5)
    [.read 0x8000 0x9D, .read 0x8001 0xFF, .read 0x8002 0x20, .write 0x2100 0x5A] = true := by decide

/-- Vector B11 of spec/95_test_vectors.md. -/
theorem test_stx_B11 : shows (step (machine 0x00 0x77 0xF0 0xFD 0x24 0x8000
      [(0x8000, 0x96), (0x8001, 0x10)]))
    0x00 0x77 0xF0 0xFD 0x24 0x8002 (.cycles 4)
    [.read 0x8000 0x96, .read 0x8001 0x10, .write 0x0000 0x77] = true := by decide

/-- Vector B12 of spec/95_test_vectors.md. -/
theorem test_sty_B12 : shows (step (machine 0x00 0x00 0x5A 0xFD 0x24 0x8000
      [(0x8000, 0x8C), (0x8001, 0x00), (0x8002, 0x02)]))
    0x00 0x00 0x5A 0xFD 0x24 0x8003 (.cycles 4)
    [.read 0x8000 0x8C, .read 0x8001 0x00, .read 0x8002 0x02, .write 0x0200 0x5A] = true := by decide

/-- Vector B1 of spec/95_test_vectors.md. -/
theorem test_tax_B1 : shows (step (machine 0x00 0x00 0x00 0xFD 0x24 0x8000
      [(0x8000, 0xAA)]))
    0x00 0x00 0x00 0xFD 0x26 0x8001 (.cycles 2)
    [.read 0x8000 0xAA] = true := by decide

/-- Vector B2 of spec/95_test_vectors.md. -/
theorem test_tay_B2 : shows (step (machine 0x80 0x00 0x00 0xFD 0x24 0x8000
      [(0x8000, 0xA8)]))
    0x80 0x00 0x80 0xFD 0xA4 0x8001 (.cycles 2)
    [.read 0x8000 0xA8] = true := by decide

/-- Vector B3 of spec/95_test_vectors.md. -/
theorem test_txa_B3 : shows (step (machine 0x00 0x7F 0x00 0xFD 0xA4 0x8000
      [(0x8000, 0x8A)]))
    0x7F 0x7F 0x00 0xFD 0x24 0x8001 (.cycles 2)
    [.read 0x8000 0x8A] = true := by decide

/-- Vector B4 of spec/95_test_vectors.md. -/
theorem test_tya_B4 : shows (step (machine 0x00 0x00 0xFF 0xFD 0x24 0x8000
      [(0x8000, 0x98)]))
    0xFF 0x00 0xFF 0xFD 0xA4 0x8001 (.cycles 2)
    [.read 0x8000 0x98] = true := by decide

/-- Vector B5 of spec/95_test_vectors.md. -/
theorem test_tsx_B5 : shows (step (machine 0x00 0x00 0x00 0xFD 0x24 0x8000
      [(0x8000, 0xBA)]))
    0x00 0xFD 0x00 0xFD 0xA4 0x8001 (.cycles 2)
    [.read 0x8000 0xBA] = true := by decide

/-- Vector B7 of spec/95_test_vectors.md. -/
theorem test_txs_B7 : shows (step (machine 0x00 0x80 0x00 0xFD 0x24 0x8000
      [(0x8000, 0x9A)]))
    0x00 0x80 0x00 0x80 0x24 0x8001 (.cycles 2)
    [.read 0x8000 0x9A] = true := by decide

/-! ### Vectors: the stack -/

/-- Vector C2 of spec/95_test_vectors.md. -/
theorem test_pha_C2 : shows (step (machine 0x11 0x00 0x00 0x00 0x24 0x8000
      [(0x8000, 0x48)]))
    0x11 0x00 0x00 0xFF 0x24 0x8001 (.cycles 3)
    [.read 0x8000 0x48, .write 0x0100 0x11] = true := by decide

/-- Vector C7 of spec/95_test_vectors.md. -/
theorem test_php_C7 : shows (step (machine 0x00 0x00 0x00 0xFD 0xE5 0x8000
      [(0x8000, 0x08)]))
    0x00 0x00 0x00 0xFC 0xE5 0x8001 (.cycles 3)
    [.read 0x8000 0x08, .write 0x01FD 0xF5] = true := by decide

/-- Vector C4 of spec/95_test_vectors.md. -/
theorem test_pla_C4 : shows (step (machine 0x00 0x00 0x00 0xFF 0x24 0x8000
      [(0x8000, 0x68), (0x0100, 0x80)]))
    0x80 0x00 0x00 0x00 0xA4 0x8001 (.cycles 4)
    [.read 0x8000 0x68, .read 0x0100 0x80] = true := by decide

/-- Vector C9 of spec/95_test_vectors.md. -/
theorem test_plp_C9 : shows (step (machine 0x00 0x00 0x00 0xFC 0x34 0x8000
      [(0x8000, 0x28), (0x01FD, 0x00)]))
    0x00 0x00 0x00 0xFD 0x30 0x8001 (.cycles 4)
    [.read 0x8000 0x28, .read 0x01FD 0x00] = true := by decide

/-- Vector C10 of spec/95_test_vectors.md. -/
theorem test_plp_C10 : shows (step (machine 0x00 0x00 0x00 0xFC 0x24 0x8000
      [(0x8000, 0x28), (0x01FD, 0xC3)]))
    0x00 0x00 0x00 0xFD 0xE3 0x8001 (.cycles 4)
    [.read 0x8000 0x28, .read 0x01FD 0xC3] = true := by decide

/-! ### Vectors: arithmetic -/

/-- Vector D4 of spec/95_test_vectors.md. -/
theorem test_adc_D4 : shows (step (machine 0xD0 0x00 0x00 0xFD 0x24 0x8000
      [(0x8000, 0x69), (0x8001, 0x90)]))
    0x60 0x00 0x00 0xFD 0x65 0x8002 (.cycles 2)
    [.read 0x8000 0x69, .read 0x8001 0x90] = true := by decide

/-- Vector D7 of spec/95_test_vectors.md. -/
theorem test_adc_D7 : shows (step (machine 0x00 0x00 0x00 0xFD 0x25 0x8000
      [(0x8000, 0x69), (0x8001, 0x7F)]))
    0x80 0x00 0x00 0xFD 0xE4 0x8002 (.cycles 2)
    [.read 0x8000 0x69, .read 0x8001 0x7F] = true := by decide

/-- Vector D11 of spec/95_test_vectors.md. -/
theorem test_sbc_D11 : shows (step (machine 0x50 0x00 0x00 0xFD 0x25 0x8000
      [(0x8000, 0xE9), (0x8001, 0xB0)]))
    0xA0 0x00 0x00 0xFD 0xE4 0x8002 (.cycles 2)
    [.read 0x8000 0xE9, .read 0x8001 0xB0] = true := by decide

/-- Vector D16 of spec/95_test_vectors.md. -/
theorem test_sbc_D16 : shows (step (machine 0x05 0x00 0x00 0xFD 0x24 0x8000
      [(0x8000, 0xE9), (0x8001, 0x03)]))
    0x01 0x00 0x00 0xFD 0x25 0x8002 (.cycles 2)
    [.read 0x8000 0xE9, .read 0x8001 0x03] = true := by decide

/-- Vector D21 of spec/95_test_vectors.md. -/
theorem test_inc_D21 : shows (step (machine 0x00 0x01 0x00 0xFD 0x24 0x8000
      [(0x8000, 0xFE), (0x8001, 0xFF), (0x8002, 0x12), (0x1300, 0x00)]))
    0x00 0x01 0x00 0xFD 0x24 0x8003 (.cycles 7)
    [.read 0x8000 0xFE, .read 0x8001 0xFF, .read 0x8002 0x12, .read 0x1300 0x00, .write 0x1300 0x01] = true := by decide

/-- Vector D24 of spec/95_test_vectors.md. -/
theorem test_inx_D24 : shows (step (machine 0x00 0xFF 0x00 0xFD 0x24 0x8000
      [(0x8000, 0xE8)]))
    0x00 0x00 0x00 0xFD 0x26 0x8001 (.cycles 2)
    [.read 0x8000 0xE8] = true := by decide

/-- Vector D25 of spec/95_test_vectors.md. -/
theorem test_iny_D25 : shows (step (machine 0x00 0x00 0x7F 0xFD 0x24 0x8000
      [(0x8000, 0xC8)]))
    0x00 0x00 0x80 0xFD 0xA4 0x8001 (.cycles 2)
    [.read 0x8000 0xC8] = true := by decide

/-- Vector D22 of spec/95_test_vectors.md. -/
theorem test_dec_D22 : shows (step (machine 0x00 0x00 0x00 0xFD 0x24 0x8000
      [(0x8000, 0xC6), (0x8001, 0x10), (0x0010, 0x00)]))
    0x00 0x00 0x00 0xFD 0xA4 0x8002 (.cycles 5)
    [.read 0x8000 0xC6, .read 0x8001 0x10, .read 0x0010 0x00, .write 0x0010 0xFF] = true := by decide

/-- Vector D26 of spec/95_test_vectors.md. -/
theorem test_dex_D26 : shows (step (machine 0x00 0x00 0x00 0xFD 0x25 0x8000
      [(0x8000, 0xCA)]))
    0x00 0xFF 0x00 0xFD 0xA5 0x8001 (.cycles 2)
    [.read 0x8000 0xCA] = true := by decide

/-- Vector D27 of spec/95_test_vectors.md. -/
theorem test_dey_D27 : shows (step (machine 0x00 0x00 0x01 0xFD 0x24 0x8000
      [(0x8000, 0x88)]))
    0x00 0x00 0x00 0xFD 0x26 0x8001 (.cycles 2)
    [.read 0x8000 0x88] = true := by decide

/-! ### Vectors: logic, bit test, shifts -/

/-- Vector E1 of spec/95_test_vectors.md. -/
theorem test_and_E1 : shows (step (machine 0xF0 0x00 0x00 0xFD 0x24 0x8000
      [(0x8000, 0x29), (0x8001, 0x0F)]))
    0x00 0x00 0x00 0xFD 0x26 0x8002 (.cycles 2)
    [.read 0x8000 0x29, .read 0x8001 0x0F] = true := by decide

/-- Vector E4 of spec/95_test_vectors.md. -/
theorem test_ora_E4 : shows (step (machine 0x01 0x00 0x00 0xFD 0x24 0x8000
      [(0x8000, 0x09), (0x8001, 0x80)]))
    0x81 0x00 0x00 0xFD 0xA4 0x8002 (.cycles 2)
    [.read 0x8000 0x09, .read 0x8001 0x80] = true := by decide

/-- Vector E6 of spec/95_test_vectors.md. -/
theorem test_eor_E6 : shows (step (machine 0x7F 0x00 0x00 0xFD 0x65 0x8000
      [(0x8000, 0x49), (0x8001, 0xFF)]))
    0x80 0x00 0x00 0xFD 0xE5 0x8002 (.cycles 2)
    [.read 0x8000 0x49, .read 0x8001 0xFF] = true := by decide

/-- Vector E7 of spec/95_test_vectors.md. -/
theorem test_bit_E7 : shows (step (machine 0x01 0x00 0x00 0xFD 0x24 0x8000
      [(0x8000, 0x24), (0x8001, 0x10), (0x0010, 0xC0)]))
    0x01 0x00 0x00 0xFD 0xE6 0x8002 (.cycles 3)
    [.read 0x8000 0x24, .read 0x8001 0x10, .read 0x0010 0xC0] = true := by decide

/-- Vector E9 of spec/95_test_vectors.md. -/
theorem test_bit_E9 : shows (step (machine 0x40 0x00 0x00 0xFD 0x24 0x8000
      [(0x8000, 0x2C), (0x8001, 0x34), (0x8002, 0x12), (0x1234, 0x40)]))
    0x40 0x00 0x00 0xFD 0x64 0x8003 (.cycles 4)
    [.read 0x8000 0x2C, .read 0x8001 0x34, .read 0x8002 0x12, .read 0x1234 0x40] = true := by decide

/-- Vector E12 of spec/95_test_vectors.md. -/
theorem test_asl_E12 : shows (step (machine 0x41 0x00 0x00 0xFD 0x25 0x8000
      [(0x8000, 0x0A)]))
    0x82 0x00 0x00 0xFD 0xA4 0x8001 (.cycles 2)
    [.read 0x8000 0x0A] = true := by decide

/-- Vector E23 of spec/95_test_vectors.md. -/
theorem test_asl_E23 : shows (step (machine 0x00 0x01 0x00 0xFD 0x24 0x8000
      [(0x8000, 0x1E), (0x8001, 0xFF), (0x8002, 0x12), (0x1300, 0x40)]))
    0x00 0x01 0x00 0xFD 0xA4 0x8003 (.cycles 7)
    [.read 0x8000 0x1E, .read 0x8001 0xFF, .read 0x8002 0x12, .read 0x1300 0x40, .write 0x1300 0x80] = true := by decide

/-- Vector E15 of spec/95_test_vectors.md. -/
theorem test_lsr_E15 : shows (step (machine 0xFE 0x00 0x00 0xFD 0xA5 0x8000
      [(0x8000, 0x4A)]))
    0x7F 0x00 0x00 0xFD 0x24 0x8001 (.cycles 2)
    [.read 0x8000 0x4A] = true := by decide

/-- Vector E16 of spec/95_test_vectors.md. -/
theorem test_lsr_E16 : shows (step (machine 0x00 0x00 0x00 0xFD 0x24 0x8000
      [(0x8000, 0x46), (0x8001, 0x10), (0x0010, 0x80)]))
    0x00 0x00 0x00 0xFD 0x24 0x8002 (.cycles 5)
    [.read 0x8000 0x46, .read 0x8001 0x10, .read 0x0010 0x80, .write 0x0010 0x40] = true := by decide

/-- Vector E17 of spec/95_test_vectors.md. -/
theorem test_rol_E17 : shows (step (machine 0x80 0x00 0x00 0xFD 0x24 0x8000
      [(0x8000, 0x2A)]))
    0x00 0x00 0x00 0xFD 0x27 0x8001 (.cycles 2)
    [.read 0x8000 0x2A] = true := by decide

/-- Vector E19 of spec/95_test_vectors.md. -/
theorem test_rol_E19 : shows (step (machine 0x00 0x00 0x00 0xFD 0x25 0x8000
      [(0x8000, 0x2E), (0x8001, 0x34), (0x8002, 0x12), (0x1234, 0xFF)]))
    0x00 0x00 0x00 0xFD 0xA5 0x8003 (.cycles 6)
    [.read 0x8000 0x2E, .read 0x8001 0x34, .read 0x8002 0x12, .read 0x1234 0xFF, .write 0x1234 0xFF] = true := by decide

/-- Vector E20 of spec/95_test_vectors.md. -/
theorem test_ror_E20 : shows (step (machine 0x01 0x00 0x00 0xFD 0x24 0x8000
      [(0x8000, 0x6A)]))
    0x00 0x00 0x00 0xFD 0x27 0x8001 (.cycles 2)
    [.read 0x8000 0x6A] = true := by decide

/-- Vector E22 of spec/95_test_vectors.md. -/
theorem test_ror_E22 : shows (step (machine 0x00 0x01 0x00 0xFD 0x25 0x8000
      [(0x8000, 0x76), (0x8001, 0x10), (0x0011, 0x03)]))
    0x00 0x01 0x00 0xFD 0xA5 0x8002 (.cycles 6)
    [.read 0x8000 0x76, .read 0x8001 0x10, .read 0x0011 0x03, .write 0x0011 0x81] = true := by decide

/-! ### Vectors: compares, branches, jumps -/

/-- Vector F4 of spec/95_test_vectors.md. -/
theorem test_cmp_F4 : shows (step (machine 0x80 0x00 0x00 0xFD 0x24 0x8000
      [(0x8000, 0xC9), (0x8001, 0x01)]))
    0x80 0x00 0x00 0xFD 0x25 0x8002 (.cycles 2)
    [.read 0x8000 0xC9, .read 0x8001 0x01] = true := by decide

/-- Vector F9 of spec/95_test_vectors.md. -/
theorem test_cmp_F9 : shows (step (machine 0x42 0x01 0x00 0xFD 0x24 0x8000
      [(0x8000, 0xDD), (0x8001, 0xFF), (0x8002, 0x12), (0x1300, 0x42)]))
    0x42 0x01 0x00 0xFD 0x27 0x8003 (.cycles 5)
    [.read 0x8000 0xDD, .read 0x8001 0xFF, .read 0x8002 0x12, .read 0x1300 0x42] = true := by decide

/-- Vector F7 of spec/95_test_vectors.md. -/
theorem test_cpx_F7 : shows (step (machine 0x00 0x05 0x00 0xFD 0x24 0x8000
      [(0x8000, 0xE4), (0x8001, 0x10), (0x0010, 0x06)]))
    0x00 0x05 0x00 0xFD 0xA4 0x8002 (.cycles 3)
    [.read 0x8000 0xE4, .read 0x8001 0x10, .read 0x0010 0x06] = true := by decide

/-- Vector F8 of spec/95_test_vectors.md. -/
theorem test_cpy_F8 : shows (step (machine 0x00 0x00 0x00 0xFD 0x24 0x8000
      [(0x8000, 0xC0), (0x8001, 0x00)]))
    0x00 0x00 0x00 0xFD 0x27 0x8002 (.cycles 2)
    [.read 0x8000 0xC0, .read 0x8001 0x00] = true := by decide

/-- Vector G3 of spec/95_test_vectors.md. -/
theorem test_bcc_G3 : shows (step (machine 0x00 0x00 0x00 0xFD 0x24 0x8000
      [(0x8000, 0x90), (0x8001, 0xFD)]))
    0x00 0x00 0x00 0xFD 0x24 0x7FFF (.cycles 4)
    [.read 0x8000 0x90, .read 0x8001 0xFD] = true := by decide

/-- Vector G14 of spec/95_test_vectors.md. -/
theorem test_bcs_G14 : shows (step (machine 0x00 0x00 0x00 0xFD 0x24 0x8000
      [(0x8000, 0xB0), (0x8001, 0x7F)]))
    0x00 0x00 0x00 0xFD 0x24 0x8002 (.cycles 2)
    [.read 0x8000 0xB0, .read 0x8001 0x7F] = true := by decide

/-- Vector G5 of spec/95_test_vectors.md. -/
theorem test_beq_G5 : shows (step (machine 0x00 0x00 0x00 0xFD 0x26 0x80F0
      [(0x80F0, 0xF0), (0x80F1, 0x7F)]))
    0x00 0x00 0x00 0xFD 0x26 0x8171 (.cycles 4)
    [.read 0x80F0 0xF0, .read 0x80F1 0x7F] = true := by decide

/-- Vector G6 of spec/95_test_vectors.md. -/
theorem test_bmi_G6 : shows (step (machine 0x00 0x00 0x00 0xFD 0xA4 0x8010
      [(0x8010, 0x30), (0x8011, 0x80)]))
    0x00 0x00 0x00 0xFD 0xA4 0x7F92 (.cycles 4)
    [.read 0x8010 0x30, .read 0x8011 0x80] = true := by decide

/-- Vector G7 of spec/95_test_vectors.md. -/
theorem test_bne_G7 : shows (step (machine 0x00 0x00 0x00 0xFD 0x24 0x80FE
      [(0x80FE, 0xD0), (0x80FF, 0x00)]))
    0x00 0x00 0x00 0xFD 0x24 0x8100 (.cycles 3)
    [.read 0x80FE 0xD0, .read 0x80FF 0x00] = true := by decide

/-- Vector G8 of spec/95_test_vectors.md. -/
theorem test_bne_G8 : shows (step (machine 0x00 0x00 0x00 0xFD 0x24 0xFFFD
      [(0xFFFD, 0xD0), (0xFFFE, 0x04)]))
    0x00 0x00 0x00 0xFD 0x24 0x0003 (.cycles 4)
    [.read 0xFFFD 0xD0, .read 0xFFFE 0x04] = true := by decide

/-- Vector G13 of spec/95_test_vectors.md. -/
theorem test_bpl_G13 : shows (step (machine 0x00 0x00 0x00 0xFD 0x24 0x8000
      [(0x8000, 0x10), (0x8001, 0xFE)]))
    0x00 0x00 0x00 0xFD 0x24 0x8000 (.cycles 3)
    [.read 0x8000 0x10, .read 0x8001 0xFE] = true := by decide

/-- Vector G10 of spec/95_test_vectors.md. -/
theorem test_bvc_G10 : shows (step (machine 0x00 0x00 0x00 0xFD 0x24 0x8000
      [(0x8000, 0x50), (0x8001, 0x01)]))
    0x00 0x00 0x00 0xFD 0x24 0x8003 (.cycles 3)
    [.read 0x8000 0x50, .read 0x8001 0x01] = true := by decide

/-- Vector G12 of spec/95_test_vectors.md. -/
theorem test_bvs_G12 : shows (step (machine 0x00 0x00 0x00 0xFD 0x64 0x80FD
      [(0x80FD, 0x70), (0x80FE, 0x01)]))
    0x00 0x00 0x00 0xFD 0x64 0x8100 (.cycles 4)
    [.read 0x80FD 0x70, .read 0x80FE 0x01] = true := by decide

/-- Vector A16 of spec/95_test_vectors.md. -/
theorem test_jmp_A16 : shows (step (machine 0x00 0x00 0x00 0xFD 0x24 0x8000
      [(0x8000, 0x6C), (0x8001, 0xFF), (0x8002, 0x02), (0x0200, 0x56), (0x02FF, 0x78), (0x0300, 0x99)]))
    0x00 0x00 0x00 0xFD 0x24 0x5678 (.cycles 5)
    [.read 0x8000 0x6C, .read 0x8001 0xFF, .read 0x8002 0x02, .read 0x02FF 0x78, .read 0x0200 0x56] = true := by decide

/-- Vector H1 of spec/95_test_vectors.md. -/
theorem test_jmp_H1 : shows (step (machine 0x00 0x00 0x00 0xFD 0x24 0x8000
      [(0x8000, 0x4C), (0x8001, 0x78), (0x8002, 0x56)]))
    0x00 0x00 0x00 0xFD 0x24 0x5678 (.cycles 3)
    [.read 0x8000 0x4C, .read 0x8001 0x78, .read 0x8002 0x56] = true := by decide

/-- Vector H3 of spec/95_test_vectors.md. -/
theorem test_jsr_H3 : shows (step (machine 0x00 0x00 0x00 0x00 0x24 0x8000
      [(0x8000, 0x20), (0x8001, 0x34), (0x8002, 0x12)]))
    0x00 0x00 0x00 0xFE 0x24 0x1234 (.cycles 6)
    [.read 0x8000 0x20, .read 0x8001 0x34, .read 0x8002 0x12, .write 0x0100 0x80, .write 0x01FF 0x02] = true := by decide

/-- Vector H6 of spec/95_test_vectors.md. -/
theorem test_rts_H6 : shows (step (machine 0x00 0x00 0x00 0xFF 0x24 0x1234
      [(0x1234, 0x60), (0x0100, 0xFF), (0x0101, 0x7F)]))
    0x00 0x00 0x00 0x01 0x24 0x8000 (.cycles 6)
    [.read 0x1234 0x60, .read 0x0100 0xFF, .read 0x0101 0x7F] = true := by decide

/-- Vector H7 of spec/95_test_vectors.md. -/
theorem test_rts_H7 : shows (step (machine 0x00 0x00 0x00 0xFB 0x24 0x1234
      [(0x1234, 0x60), (0x01FC, 0xFF), (0x01FD, 0xFF)]))
    0x00 0x00 0x00 0xFD 0x24 0x0000 (.cycles 6)
    [.read 0x1234 0x60, .read 0x01FC 0xFF, .read 0x01FD 0xFF] = true := by decide

/-! ### Vectors: flags, break, return, unsupported -/

/-- Vector I1 of spec/95_test_vectors.md. -/
theorem test_clc_I1 : shows (step (machine 0x00 0x00 0x00 0xFD 0xFF 0x8000
      [(0x8000, 0x18)]))
    0x00 0x00 0x00 0xFD 0xFE 0x8001 (.cycles 2)
    [.read 0x8000 0x18] = true := by decide

/-- Vector I2 of spec/95_test_vectors.md. -/
theorem test_sec_I2 : shows (step (machine 0x00 0x00 0x00 0xFD 0x24 0x8000
      [(0x8000, 0x38)]))
    0x00 0x00 0x00 0xFD 0x25 0x8001 (.cycles 2)
    [.read 0x8000 0x38] = true := by decide

/-- Vector I3 of spec/95_test_vectors.md. -/
theorem test_cli_I3 : shows (step (machine 0x00 0x00 0x00 0xFD 0xFF 0x8000
      [(0x8000, 0x58)]))
    0x00 0x00 0x00 0xFD 0xFB 0x8001 (.cycles 2)
    [.read 0x8000 0x58] = true := by decide

/-- Vector I4 of spec/95_test_vectors.md. -/
theorem test_sei_I4 : shows (step (machine 0x00 0x00 0x00 0xFD 0x20 0x8000
      [(0x8000, 0x78)]))
    0x00 0x00 0x00 0xFD 0x24 0x8001 (.cycles 2)
    [.read 0x8000 0x78] = true := by decide

/-- Vector I5 of spec/95_test_vectors.md. -/
theorem test_clv_I5 : shows (step (machine 0x00 0x00 0x00 0xFD 0xFF 0x8000
      [(0x8000, 0xB8)]))
    0x00 0x00 0x00 0xFD 0xBF 0x8001 (.cycles 2)
    [.read 0x8000 0xB8] = true := by decide

/-- Vector I6 of spec/95_test_vectors.md. -/
theorem test_cld_I6 : shows (step (machine 0x00 0x00 0x00 0xFD 0xFF 0x8000
      [(0x8000, 0xD8)]))
    0x00 0x00 0x00 0xFD 0xF7 0x8001 (.cycles 2)
    [.read 0x8000 0xD8] = true := by decide

/-- Vector I7 of spec/95_test_vectors.md. -/
theorem test_sed_I7 : shows (step (machine 0x00 0x00 0x00 0xFD 0x24 0x8000
      [(0x8000, 0xF8)]))
    0x00 0x00 0x00 0xFD 0x2C 0x8001 (.cycles 2)
    [.read 0x8000 0xF8] = true := by decide

/-- Vector I8 of spec/95_test_vectors.md. -/
theorem test_nop_I8 : shows (step (machine 0x01 0x02 0x03 0xFD 0xE5 0xFFFF
      [(0xFFFF, 0xEA)]))
    0x01 0x02 0x03 0xFD 0xE5 0x0000 (.cycles 2)
    [.read 0xFFFF 0xEA] = true := by decide

/-- Vector I9 of spec/95_test_vectors.md. -/
theorem test_brk_I9 : shows (step (machine 0x00 0x00 0x00 0xFD 0x24 0x8000
      [(0x8000, 0x00)]))
    0x00 0x00 0x00 0xFD 0x34 0x8001 (.cycles 7)
    [.read 0x8000 0x00] = true := by decide

/-- Vector I12 of spec/95_test_vectors.md. -/
theorem test_brk_I12 : shows (step (vectoring (machine 0x00 0x00 0x00 0x01 0xE1 0xFFFF
      [(0xFFFF, 0x00), (0xFFFE, 0x00)])))
    0x00 0x00 0x00 0xFE 0xF5 0x0000 (.cycles 7)
    [.read 0xFFFF 0x00, .write 0x0101 0x00, .write 0x0100 0x01, .write 0x01FF 0xF1, .read 0xFFFE 0x00, .read 0xFFFF 0x00] = true := by decide

/-- Vector I14 of spec/95_test_vectors.md. -/
theorem test_rti_I14 : shows (step (machine 0x00 0x00 0x00 0xFA 0x24 0x9000
      [(0x9000, 0x40), (0x01FB, 0xFF), (0x01FC, 0x34), (0x01FD, 0x12)]))
    0x00 0x00 0x00 0xFD 0xEF 0x1234 (.cycles 6)
    [.read 0x9000 0x40, .read 0x01FB 0xFF, .read 0x01FC 0x34, .read 0x01FD 0x12] = true := by decide

/-- Vector I15 of spec/95_test_vectors.md. -/
theorem test_rti_I15 : shows (step (machine 0x00 0x00 0x00 0xFE 0x34 0x9000
      [(0x9000, 0x40), (0x0100, 0xCD), (0x0101, 0xAB), (0x01FF, 0x00)]))
    0x00 0x00 0x00 0x01 0x30 0xABCD (.cycles 6)
    [.read 0x9000 0x40, .read 0x01FF 0x00, .read 0x0100 0xCD, .read 0x0101 0xAB] = true := by decide

/-- Vector J2 of spec/95_test_vectors.md. -/
theorem test_unsupported_J2 : shows (step (machine 0x12 0x00 0x00 0xFD 0xE5 0xFFFF
      [(0xFFFF, 0xFF)]))
    0x12 0x00 0x00 0xFD 0xE5 0x0000 (.fault (.unsupportedOpcode 0xFF))
    [.read 0xFFFF 0xFF] = true := by decide

/-- Vector J3 of spec/95_test_vectors.md. -/
theorem test_unsupported_J3 : shows (step (machine 0x00 0x00 0x00 0xFD 0x24 0x8000
      [(0x8000, 0x80), (0x8001, 0x10)]))
    0x00 0x00 0x00 0xFD 0x24 0x8001 (.fault (.unsupportedOpcode 0x80))
    [.read 0x8000 0x80] = true := by decide

/-! ### Vectors: a failing bus -/

/-- Vector J5: the write fails. -/
theorem test_sta_J5 : shows (step (within (only 0x8000 0x8002) (machine 0x5A 0 0 0xFD 0x24 0x8000
      [(0x8000, 0x8D), (0x8001, 0x00), (0x8002, 0x50)])))
    0x5A 0x00 0x00 0xFD 0x24 0x8003 (.fault (.unbackedMemoryAccess 0x5000 .write))
    [.read 0x8000 0x8D, .read 0x8001 0x00, .read 0x8002 0x50, .writeError 0x5000 0x5A] = true := by decide

/-- Vector J7: the read of INC answers 7F, the write fails, and P is not updated. -/
theorem test_inc_J7 : shows (step (within
      { ramEnd := 0, ioEnd := 0
        cartridge := [⟨0x8000, 0x8002, ⟨.stored, .store⟩⟩, ⟨0x5000, 0x5000, ⟨.stored, .error⟩⟩] }
      (machine 0x5A 0 0 0xFD 0x24 0x8000 [(0x5000, 0x7F), (0x8000, 0xEE), (0x8001, 0x00), (0x8002, 0x50)])))
    0x5A 0x00 0x00 0xFD 0x24 0x8003 (.fault (.unbackedMemoryAccess 0x5000 .write))
    [.read 0x8000 0xEE, .read 0x8001 0x00, .read 0x8002 0x50, .read 0x5000 0x7F, .writeError 0x5000 0x80] = true := by
  decide

/-- Vector J8: the opcode fetch fails. -/
theorem test_fetch_J8 : shows (step (within ramOnly (machine 0x5A 0 0 0xFD 0x24 0x8000 [])))
    0x5A 0x00 0x00 0xFD 0x24 0x8000 (.fault (.unbackedMemoryAccess 0x8000 .read)) [.readError 0x8000] = true := by
  decide

/-- Vector J9: the second operand byte fails, and PC is past the opcode only. -/
theorem test_fetch_J9 : shows (step (within (only 0x8000 0x8001) (machine 0x5A 0 0 0xFD 0x24 0x8000
      [(0x8000, 0xAD), (0x8001, 0x00)])))
    0x5A 0x00 0x00 0xFD 0x24 0x8001 (.fault (.unbackedMemoryAccess 0x8002 .read))
    [.read 0x8000 0xAD, .read 0x8001 0x00, .readError 0x8002] = true := by decide

/-- Vector J10: the second push of JSR fails, and the first stays. -/
theorem test_jsr_J10 : shows (step (within
      { ramEnd := 0, ioEnd := 0
        cartridge := [⟨0x8000, 0x8002, ⟨.stored, .store⟩⟩, ⟨0x01FD, 0x01FD, ⟨.stored, .store⟩⟩] }
      (machine 0x5A 0 0 0xFD 0x24 0x8000 [(0x8000, 0x20), (0x8001, 0x00), (0x8002, 0x90)])))
    0x5A 0x00 0x00 0xFC 0x24 0x8003 (.fault (.unbackedMemoryAccess 0x01FC .write))
    [.read 0x8000 0x20, .read 0x8001 0x00, .read 0x8002 0x90, .write 0x01FD 0x80, .writeError 0x01FC 0x02] = true := by
  decide

/-! ## Witnesses: the hypotheses of the statements can be met, clause by clause -/

/-- The state most witnesses use: PC 8000, S 00 (so that the stack wraps), everything plain storage. -/
def plain : State := machine 0x12 0x01 0x02 0x00 0x24 0x8000
  [(0x0000, 0x12), (0x0001, 0x34), (0x00FF, 0x80), (0x0100, 0x55), (0x01FF, 0x66), (0x0200, 0x56), (0x02FF, 0x78),
   (0x0300, 0x99)]

/-- The same with no address backed. -/
def bare : State := within { ramEnd := 0, ioEnd := 0, cartridge := [] } plain

/-- A form of each mode with an effective address; the indexed ones cross a page in `plain`. -/
def sampleMem : Mode → MemForm
  | .zp => .zp 0xFF
  | .zpx => .zpx 0xFF
  | .zpy => .zpy 0xFF
  | .abs => .abs 0x0300
  | .abx => .abx 0x02FF
  | .aby => .aby 0x02FE
  | .ind => .ind 0x02FF
  | .izx => .izx 0xFF
  | .izy => .izy 0xFF
  | .imp | .acc | .imm | .rel | .noMode => .zp 0x00

/-- A form of each mode of a reading instruction. -/
def sampleRead (m : Mode) : ReadForm := if m = .imm then .imm 0x80 else .mem (sampleMem m)

/-- `plain` with nothing backed but, for a mode with a pointer, page 0: the address is resolved, and no access of it is
answered ok. -/
def unbackedData (m : Mode) : State := if pointerReads m = 0 then bare else within (only 0x0000 0x00FF) plain

/-- For a row of a reading instruction: a form of its mode and, if it reads memory, a state in which the address is
resolved and read, one in which it is resolved and the read raises, and, for a mode with a pointer, one in which
resolving raises. -/
def readRowMet (row : Row) : Bool :=
  (sampleRead row.mode).mode = row.mode && (row.mode = .imm ||
    (match resolve (sampleMem row.mode) row.sensitive plain with
     | .done r t => isDone (memRead r.1 t)
     | .raised _ _ => false) &&
    (match resolve (sampleMem row.mode) row.sensitive (unbackedData row.mode) with
     | .done r t => isRaised (memRead r.1 t)
     | .raised _ _ => false) &&
    (pointerReads row.mode = 0 || isRaised (resolve (sampleMem row.mode) row.sensitive bare)))

/-- For a row of a store: a form, a state in which the address is resolved and the write answered ok, one in which the
write raises, and, for a mode with a pointer, one in which resolving raises. -/
def storeRowMet (row : Row) : Bool :=
  (sampleMem row.mode).mode = row.mode &&
  (match resolve (sampleMem row.mode) row.sensitive plain with
   | .done r t => isDone (memWrite r.1 0x80 t)
   | .raised _ _ => false) &&
  (match resolve (sampleMem row.mode) row.sensitive (unbackedData row.mode) with
   | .done r t => isRaised (memWrite r.1 0x80 t)
   | .raised _ _ => false) &&
  (pointerReads row.mode = 0 || isRaised (resolve (sampleMem row.mode) row.sensitive bare))

/-- Storage that can be read, and whose writes are answered with error. -/
def readOnlyError : Config.AddressMap where
  ramEnd := 0
  ioEnd := 0
  cartridge := [{ first := 0x0000, last := 0xFFFF, law := { onRead := .stored, onWrite := .error } }]

/-- For a row of a read-modify-write: resolved, read and written; read and the write raised; the read raised. -/
def modifyRowMet (row : Row) : Bool :=
  (sampleMem row.mode).mode = row.mode &&
  (match resolve (sampleMem row.mode) row.sensitive plain with
   | .done r t => isDone (memRead r.1 t) && isDone (memWrite r.1 0x80 (endOf (memRead r.1 t)))
   | .raised _ _ => false) &&
  (match resolve (sampleMem row.mode) row.sensitive (within readOnlyError plain) with
   | .done r t => isDone (memRead r.1 t) && isRaised (memWrite r.1 0x80 (endOf (memRead r.1 t)))
   | .raised _ _ => false) &&
  (match resolve (sampleMem row.mode) row.sensitive bare with
   | .done r t => isRaised (memRead r.1 t)
   | .raised _ _ => false)

/-- O2, at both ends of the operand values, and of the unsupported values. -/
theorem test_witness_DecodeOfEncodeIsTheInstruction :
    (Instr.lda (.mem (.abx 0xFFFF))).wellFormed = true ∧ (Instr.jsr 0x0000).wellFormed = true ∧
    (Instr.unsupported 0x02).wellFormed = true ∧ (Instr.unsupported 0xFF).wellFormed = true := by decide

/-- O3, with a byte left over. -/
theorem test_witness_EncodeOfDecodeIsTheBytes :
    decode [0xBD, 0xFF, 0x20, 0xEA] = .ok (.lda (.mem (.abx 0x20FF))) [0xEA] := by decide

/-- O6: three, two and one byte, at the end of the address space, in storage. -/
theorem test_witness_StepRunsTheDecodedInstruction :
    State.reset.specified.all = true ∧
    decode (bytesAtPc (machine 0 0 0 0xFD 0x24 0xFFFF [(0xFFFF, 0xAD), (0x0000, 0x34), (0x0001, 0x12)])) =
      .ok (.lda (.mem (.abs 0x1234))) [] ∧
    decode (bytesAtPc (machine 0 0 0 0xFD 0x24 0xFFFF [(0xFFFF, 0xA9)])) = .ok (.lda (.imm 0x00)) [0x00] ∧
    decode (bytesAtPc (machine 0 0 0 0xFD 0x24 0xFFFF [(0xFFFF, 0xEA)])) = .ok .nop [0x00, 0x00] ∧
    ∀ k < 3, (lawAt State.reset.map (0xFFFF + BitVec.ofNat 16 k)).onRead = .stored := by decide

/-- O7, both sides. -/
theorem test_witness_StepRefusedWhileARegisterIsUnspecified :
    (State.powerOn Config.decided Config.flatMap []).specified.all = false ∧ State.reset.specified.all = true ∧
    isRefused (step (State.powerOn Config.decided Config.flatMap [])) .registersUnspecified = true := by decide

/-- O8, each clause: the opcode read fails; the first operand byte, in Immediate and in Zero Page; the second. -/
theorem test_witness_FailedFetchLeavesPcByMode :
    (lawAt ramOnly 0x8000).onRead = .error ∧
    ((lawAt (only 0x8000 0x8000) 0x8000).onRead = .stored ∧ (lawAt (only 0x8000 0x8000) 0x8001).onRead = .error ∧
      modeOf ((machine 0 0 0 0 0x24 0x8000 [(0x8000, 0xA9)]).byteAt 0x8000) = .imm ∧
      (modeOf ((machine 0 0 0 0 0x24 0x8000 [(0x8000, 0xA5)]).byteAt 0x8000)).operandBytes = 1) ∧
    ((lawAt (only 0x8000 0x8001) 0x8000).onRead = .stored ∧ (lawAt (only 0x8000 0x8001) 0x8001).onRead = .stored ∧
      (lawAt (only 0x8000 0x8001) 0x8002).onRead = .error ∧
      (modeOf ((machine 0 0 0 0 0x24 0x8000 [(0x8000, 0xAD)]).byteAt 0x8000)).operandBytes = 2) := by decide

/-- O9: a state with all registers specified. -/
theorem test_witness_EveryStepIsAnswered : State.reset.specified.all = true := by decide

/-- O10: an environment that backs every address, every register specified, PC in storage, and an opcode byte of each
kind at it. -/
theorem test_witness_BackedStepsFaultOnlyOnUnsupportedOpcodes : Backed State.reset.map ∧
    State.reset.specified.all = true ∧ (lawAt State.reset.map State.reset.pc).onRead = .stored ∧
    State.reset.byteAt State.reset.pc ∉ unsupportedOpcodes ∧
    (State.reset.withFetchWord 8 0x02).specified.all = true ∧
    (State.reset.withFetchWord 8 0x02).map = State.reset.map ∧
    (State.reset.withFetchWord 8 0x02).byteAt State.reset.pc ∈ unsupportedOpcodes := by
  refine ⟨fun addr => ?_, by decide⟩
  have hlt := addr.isLt
  by_cases h : addr.toNat < 0x0800
  · simp [lawAt, State.reset, Config.flatMap, h]
  · have h1 : 2048 ≤ addr.toNat := by omega
    have h2 : addr.toNat ≤ 65535 := by omega
    simp [lawAt, State.reset, Config.flatMap, h, h1, h2]

/-- O11: the first and the last of the 105 values, and a state that steps at one. -/
theorem test_witness_UnsupportedOpcodeFaults : (0x02 : Byte) ∈ unsupportedOpcodes ∧
    (0xFF : Byte) ∈ unsupportedOpcodes ∧
    (machine 0 0 0 0xFD 0x24 0xFFFF [(0xFFFF, 0xFF)]).byteAt 0xFFFF = 0xFF ∧
    (lawAt Config.flatMap 0xFFFF).onRead = .stored := by decide

/-- O13: a state that meets the invariant and steps; the invariant itself is O12. -/
theorem test_witness_StepKeepsInvariant : (machine 1 2 3 0 0x24 0x8000 [(0x8000, 0x48)]).Inv ∧
    isNext (step (machine 1 2 3 0 0x24 0x8000 [(0x8000, 0x48)])) = true := by decide

/-- O15: bit 5 is 1 in a state that steps (PLP pulls 00). -/
theorem test_witness_UnusedBitIsAlwaysOne : (machine 0 0 0 0xFC 0x34 0x8000 [(0x8000, 0x28)]).flag .u = true ∧
    isNext (step (machine 0 0 0 0xFC 0x34 0x8000 [(0x8000, 0x28)])) = true := by decide

/-- O16: B is 1 in a state that steps; PLP and RTI give next states. -/
theorem test_witness_BreakIsNeverCleared : (machine 0 0 0 0xFC 0x34 0x8000 [(0x8000, 0x28)]).flag .b = true ∧
    isNext (step (machine 0 0 0 0xFC 0x34 0x8000 [(0x8000, 0x28)])) = true ∧ Instr.plp ≠ .brk ∧ Instr.rti ≠ .brk ∧
    isNext (exec .plp plain) = true ∧ isNext (exec .rti plain) = true := by decide

/-- O17: flags outside the mask, of PLP, of an operation with an empty mask, and of BRK under both values. -/
theorem test_witness_FlagsOutsideTheMaskStay : plain.flag .u = true ∧ isNext (exec .plp plain) = true ∧
    Flag.b ∉ Operation.plp.flagMask false ∧ Flag.u ∉ Operation.plp.flagMask false ∧
    isNext (exec .txs plain) = true ∧ Flag.z ∉ Operation.txs.flagMask false ∧
    isNext (exec .brk plain) = true ∧ Flag.i ∉ Operation.brk.flagMask false ∧
    isNext (exec .brk (vectoring plain)) = true ∧ Flag.d ∉ Operation.brk.flagMask true := by decide

/-- O18: one instruction for which no register is written, and BRK under both values of BRK_VECTORING. -/
theorem test_witness_RegistersUnchangedUnlessWritten :
    isNext (exec .nop plain) = true ∧ writesA .nop = false ∧ writesX .nop = false ∧ writesY .nop = false ∧
    writesS false .nop = false ∧ Operation.nop.flagMask false = [] ∧ writesPc false .nop = false ∧
    isNext (exec .brk plain) = true ∧ writesS false .brk = false ∧ writesPc false .brk = false ∧
    isNext (exec (.asl (.mem (.zp 0x10))) plain) = true ∧ writesA (.asl (.mem (.zp 0x10))) = false := by decide

/-- O19: a store, with an address next to the stored one and, in mirrored RAM, one next to its mirror; an instruction
that stores nothing. -/
theorem test_witness_MemoryUnchangedOutsideStores :
    isNext (exec (.sta (.zp 0x10)) (within mixed plain)) = true ∧
    storedAddresses (.sta (.zp 0x10)) (within mixed plain) = [0x0010] ∧
    ¬ SameByte mixed 0x0011 0x0010 ∧ ¬ SameByte mixed 0x0811 0x0010 ∧ SameByte mixed 0x0810 0x0010 ∧
    isNext (exec (.cmp (.imm 0x10)) plain) = true ∧ storedAddresses (.cmp (.imm 0x10)) plain = [] ∧
    isNext (exec .pha plain) = true ∧ storedAddresses .pha plain = [0x0100] ∧
    ¬ SameByte plain.map 0x01FF 0x0100 := by decide

/-- O20: STA to read-only storage, to the I/O window and to an unbacked address. -/
theorem test_witness_ReadOnlyStorageNeverChanges :
    (lawAt mixed 0x8000).onWrite ≠ .store ∧ (lawAt mixed 0x2000).onWrite ≠ .store ∧
    (lawAt mixed 0x5000).onWrite ≠ .store ∧
    isNext (step (within mixed (machine 1 0 0 0xFD 0x24 0x0000 [(0x0000, 0x8D), (0x0002, 0x80)]))) = true := by decide

/-- O21: instructions that complete with a count, and their transactions in order as R253's rows list them: a push, a
read-modify-write, and JMP through a pointer at the end of a page. -/
theorem test_witness_BusTransactionsPerInstruction :
    shows (exec .pha plain) 0x12 0x01 0x02 0xFF 0x24 0x8000 (.cycles 3) [.write 0x0100 0x12] = true ∧
    accesses .pha plain = [(.write, 0x0100)] ∧
    isNext (exec (.inc (.zpx 0xFF)) plain) = true ∧
    accesses (.inc (.zpx 0xFF)) plain = [(.read, 0x0000), (.write, 0x0000)] ∧
    isNext (exec (.jmp (.ind 0x02FF)) plain) = true ∧
    accesses (.jmp (.ind 0x02FF)) plain = [(.read, 0x02FF), (.read, 0x0200)] := by decide

/-- O22: an address of each law, at the boundaries of the windows. -/
theorem test_witness_MemoryPrimitivesAnswerOrRaise :
    lawAt mixed 0x1FFF = { onRead := .stored, onWrite := .store } ∧
    lawAt mixed 0x2000 = { onRead := .anyValue, onWrite := .discard } ∧
    lawAt mixed 0x401F = { onRead := .anyValue, onWrite := .discard } ∧
    lawAt mixed 0x4020 = { onRead := .error, onWrite := .error } ∧
    lawAt mixed 0x8000 = { onRead := .stored, onWrite := .discard } ∧
    lawAt mixed 0xFFFF = { onRead := .anyAnswer, onWrite := .anyAnswer } := by decide

/-- O23: plain storage, written; an address that shares its byte and one that does not. -/
theorem test_witness_ReadAfterWriteInPlainStorage : (within mixed plain).Plain 0x0010 ∧
    isDone (memWrite 0x0010 0x80 (within mixed plain)) = true ∧
    SameByte mixed 0x1810 0x0010 ∧ ¬ SameByte mixed 0x2010 0x0010 := by decide

/-- O24: the slot is plain storage, at S = 00; or its write is answered error. -/
theorem test_witness_PushWritesThenDecrements : plain.Plain 0x0100 ∧ plain.sp = 0x00 ∧
    SameByte plain.map 0x0100 0x0100 ∧ ¬ SameByte plain.map 0x01FF 0x0100 ∧
    (lawAt bare.map 0x0100).onWrite = .error := by decide

/-- O25: the slot is storage, at S = FF; or unbacked; a push to plain storage is done. -/
theorem test_witness_PullIncrementsThenReads : (plain.setSp 0xFF).sp = 0xFF ∧
    (lawAt plain.map 0x0100).onRead = .stored ∧ (lawAt bare.map 0x0100).onRead = .error ∧
    plain.Plain (stackSlot plain 0) ∧ isDone (push 0x5A plain) = true := by decide

/-- `plain` with JMP_IND_WRAP = linear. -/
def linear : State := { plain with cfg := { plain.cfg with jmpIndWrap := .linear } }

/-- O27: the pointer of (ptr) at the end of a page, in a state of each value of JMP_IND_WRAP; those of (zp,X) and
(zp),Y at the end of page 0. -/
theorem test_witness_IndirectModesResolve :
    linear.cfg.jmpIndWrap = .linear ∧ (lawAt linear.map 0x02FF).onRead = .stored ∧
    (lawAt linear.map 0x0300).onRead = .stored ∧ (0x0000 : Word).toNat = (0xFFFF + 1) % 65536 ∧
    (lawAt linear.map 0xFFFF).onRead = .stored ∧ (lawAt linear.map 0x0000).onRead = .stored ∧
    plain.cfg.jmpIndWrap = .page ∧ (0x0200 : Word).toNat = (0x02FF : Word).toNat / 256 * 256 + (0x02FF + 1) % 256 ∧
    (0x0300 : Word).toNat = (0x02FF + 1) % 65536 ∧
    plain.x = 0x01 ∧ (0x00FF : Word).toNat = (0xFE + 0x01) % 256 ∧ (0x0000 : Word).toNat = (0x00FF + 1) % 256 ∧
    (lawAt plain.map 0x02FF).onRead = .stored ∧ (lawAt plain.map 0x0200).onRead = .stored ∧
    (lawAt plain.map 0x0300).onRead = .stored ∧ (lawAt plain.map 0x00FF).onRead = .stored ∧
    (lawAt plain.map 0x0000).onRead = .stored := by decide

/-- O28: resolving and reading an operand are done, and raise. -/
theorem test_witness_ResolvingTouchesOnlyTheBus : isDone (resolve (.izy 0xFF) true plain) = true ∧
    isRaised (resolve (.izy 0xFF) true bare) = true ∧
    isDone (operandValue (.mem (.abx 0x02FF)) true plain) = true ∧
    isRaised (operandValue (.mem (.abx 0x02FF)) true bare) = true ∧
    isDone (operandValue (.imm 0x80) false plain) = true ∧
    isRaised (operandValue (.mem (.izy 0xFF)) true (within (only 0x0000 0x00FF) plain)) = true := by decide

/-- O30, for every row. -/
theorem test_witness_LoadsReadOneByte :
    ldaRows.all readRowMet = true ∧ ldxRows.all readRowMet = true ∧ ldyRows.all readRowMet = true := by decide

/-- O34, for every row. -/
theorem test_witness_AddWithCarry :
    adcRows.all readRowMet = true := by decide

/-- O35, for every row. -/
theorem test_witness_SubtractWithBorrow :
    sbcRows.all readRowMet = true := by decide

/-- O39, for every row. -/
theorem test_witness_LogicCombinesAWithMemory :
    andRows.all readRowMet = true ∧ oraRows.all readRowMet = true ∧ eorRows.all readRowMet = true := by decide

/-- O40, for every row. -/
theorem test_witness_BitTestsMemoryAgainstA :
    bitRows.all readRowMet = true := by decide

/-- O42, for every row. -/
theorem test_witness_ComparesSetFlagsOnly :
    cmpRows.all readRowMet = true ∧ cpxRows.all readRowMet = true ∧ cpyRows.all readRowMet = true := by decide

/-- The sensitive rows of O30, O34, O35, O39 and O42 with and without the extra cycle. -/
theorem test_witness_ReadRowsPayThePageCrossing :
    (match operandValue (.mem (.abx 0x02FF)) true plain with
      | .done r _ => r.2
      | .raised _ _ => false) = true ∧
    (match operandValue (.mem (.abx 0x02FE)) true plain with
      | .done r _ => r.2
      | .raised _ _ => true) = false := by decide

/-- O31, for every row. -/
theorem test_witness_StoresWriteOneByte :
    staRows.all storeRowMet = true ∧ stxRows.all storeRowMet = true ∧ styRows.all storeRowMet = true := by decide

/-- O32: the push is done, and raises. -/
theorem test_witness_PushInstructions :
    isDone (push plain.a plain) = true ∧ isRaised (push bare.a bare) = true ∧
    isDone (push (plain.p ||| 0x30) plain) = true ∧ isRaised (push (bare.p ||| 0x30) bare) = true := by decide

/-- O33: the pull is done, and raises. -/
theorem test_witness_PullInstructions :
    isDone (pull plain) = true ∧ isRaised (pull bare) = true := by decide

/-- O36: two values of P that differ in D only, and operands of both instructions. -/
theorem test_witness_DecimalFlagDoesNotAffectArithmetic : KeepsOther [.d] 0x24 0x2C ∧ plain.p = 0x24 ∧
    isNext (exec (.adc (.imm 0x01)) plain) = true ∧ isNext (exec (.sbc (.mem (.zp 0xFF))) plain) = true := by
  refine ⟨fun f hf => ?_, by decide⟩
  cases f <;> first | rfl | exact absurd (List.mem_singleton.2 rfl) hf

/-- O37, for every row. -/
theorem test_witness_MemoryIncrementAndDecrement :
    incRows.all modifyRowMet = true ∧ decRows.all modifyRowMet = true := by decide

/-- O41, for every row with an effective address. -/
theorem test_witness_ShiftsAndRotates :
    (memoryRows aslRows).all modifyRowMet = true ∧ (memoryRows lsrRows).all modifyRowMet = true ∧
    (memoryRows rolRows).all modifyRowMet = true ∧ (memoryRows rorRows).all modifyRowMet = true := by decide

/-- O43: each of the four flags clear, and set. -/
theorem test_witness_BranchesJumpFromTheNextInstruction :
    (∀ f ∈ [Flag.c, Flag.z, Flag.n, Flag.v], plain.flag f = false) ∧
    (∀ f ∈ [Flag.c, Flag.z, Flag.n, Flag.v], (plain.setP 0xE7).flag f = true) := by decide

/-- The pointer read of a mode raises or there is none. -/
theorem test_witness_JumpLoadsPc : (sampleMem .abs).mode = .abs ∧ (sampleMem .ind).mode = .ind ∧
    isDone (resolve (sampleMem .abs) false plain) = true ∧ isDone (resolve (sampleMem .ind) false plain) = true ∧
    isRaised (resolve (sampleMem .ind) false bare) = true := by decide

/-- O45: both pushes done; the first raises; the first done and the second raises, at S = 00. -/
theorem test_witness_SubroutineCall :
    isDone (push 0x7F plain) = true ∧ isDone (push 0xFF (endOf (push 0x7F plain))) = true ∧
    isRaised (push 0x7F bare) = true ∧
    isDone (push 0x7F (within (only 0x0100 0x0100) plain)) = true ∧
    isRaised (push 0xFF (endOf (push 0x7F (within (only 0x0100 0x0100) plain)))) = true := by decide

/-- O46: both pulls done; the first raises; the first done and the second raises. -/
theorem test_witness_SubroutineReturn :
    isDone (pull plain) = true ∧ isDone (pull (endOf (pull plain))) = true ∧ isRaised (pull bare) = true ∧
    isDone (pull (within (only 0x0101 0x0101) plain)) = true ∧
    isRaised (pull (endOf (pull (within (only 0x0101 0x0101) plain)))) = true := by decide

/-- O47: the two slots are plain storage, with S = 00. -/
theorem test_witness_ReturnUndoesCall : plain.Plain (stackSlot plain 0) ∧ plain.Plain (stackSlot plain 1) ∧
    stackSlot plain 0 = 0x0100 ∧ stackSlot plain 1 = 0x01FF := by decide

/-- A machine at the BRK of O50: S = 02, BRK_VECTORING on, the vector at 0102. -/
def breaking (map : Config.AddressMap) : State :=
  within map { plain with sp := 0x02, cfg := { plain.cfg with brkVectoring := true, brkVector := 0x0102 } }

/-- The states BRK goes through: after the first push, the second, the third, the low vector byte. -/
def breakPath (map : Config.AddressMap) : Run Unit × Run Unit × Run Unit × Run Byte × Run Byte :=
  let r1 := push 0x80 (breaking map)
  let r2 := push 0x01 (endOf r1)
  let r3 := push (0x24 ||| 0x30) { endOf r2 with p := 0x24 ||| 0x10 }
  let r4 := memRead 0x0102 { endOf r3 with p := 0x24 ||| 0x14 }
  let r5 := memRead 0x0103 (endOf r4)
  (r1, r2, r3, r4, r5)

/-- O50: off; and on with every access done, and with each of the five raising after the ones before it were done. -/
theorem test_witness_SoftwareBreak : plain.cfg.brkVectoring = false ∧
    (breaking Config.flatMap).cfg.brkVectoring = true ∧ (breaking Config.flatMap).p = 0x24 ∧
    256 * (0x80 : Byte).toNat + (0x01 : Byte).toNat = ((breaking Config.flatMap).pc.toNat + 1) % 65536 ∧
    isDone (breakPath Config.flatMap).1 = true ∧ isDone (breakPath Config.flatMap).2.1 = true ∧
    isDone (breakPath Config.flatMap).2.2.1 = true ∧ isDone (breakPath Config.flatMap).2.2.2.1 = true ∧
    isDone (breakPath Config.flatMap).2.2.2.2 = true ∧
    isRaised (breakPath bare.map).1 = true ∧
    isDone (breakPath (only 0x0102 0x0102)).1 = true ∧ isRaised (breakPath (only 0x0102 0x0102)).2.1 = true ∧
    isDone (breakPath (only 0x0101 0x0102)).2.1 = true ∧ isRaised (breakPath (only 0x0101 0x0102)).2.2.1 = true ∧
    isDone (breakPath (only 0x0100 0x0102)).2.2.1 = true ∧ isDone (breakPath (only 0x0100 0x0102)).2.2.2.1 = true ∧
    isRaised (breakPath (only 0x0100 0x0102)).2.2.2.2 = true := by decide

/-- O50: the low vector byte raises after the three pushes were done. -/
theorem test_witness_SoftwareBreak_vector :
    isDone (push 0x34 { endOf (push 0x01 (endOf (push 0x80 (within (only 0x0100 0x0102)
      (vectoring (plain.setSp 0x02)))))) with p := 0x34 }) = true ∧
    isRaised (memRead 0xFFFE { endOf (push 0x34 { endOf (push 0x01 (endOf (push 0x80 (within (only 0x0100 0x0102)
      (vectoring (plain.setSp 0x02)))))) with p := 0x34 }) with p := 0x34 }) = true := by decide

/-- The pulls of RTI, P being `q` from the first on. -/
def returnPath (q : Byte) (s : State) : Run Byte × Run Byte × Run Byte :=
  let r1 := pull s
  let r2 := pull { endOf r1 with p := q }
  let r3 := pull (endOf r2)
  (r1, r2, r3)

/-- O51: three pulls done, and each of them raising after the ones before it were done. -/
theorem test_witness_ReturnFromInterrupt :
    isDone (returnPath 0x20 plain).1 = true ∧ isDone (returnPath 0x20 plain).2.1 = true ∧
    isDone (returnPath 0x20 plain).2.2 = true ∧ isRaised (returnPath 0x20 bare).1 = true ∧
    isDone (returnPath 0x20 (within (only 0x0101 0x0101) plain)).1 = true ∧
    isRaised (returnPath 0x20 (within (only 0x0101 0x0101) plain)).2.1 = true ∧
    isDone (returnPath 0x20 (within (only 0x0101 0x0102) plain)).2.1 = true ∧
    isRaised (returnPath 0x20 (within (only 0x0101 0x0102) plain)).2.2 = true := by decide

/-- O52: vectoring on, S = 01 so that the third slot wraps, slots and vector in storage. -/
theorem test_witness_ReturnFromBreak : (vectoring (plain.setSp 0x01)).cfg.brkVectoring = true ∧
    (vectoring (plain.setSp 0x01)).Plain (stackSlot (vectoring (plain.setSp 0x01)) 0) ∧
    (vectoring (plain.setSp 0x01)).Plain (stackSlot (vectoring (plain.setSp 0x01)) 1) ∧
    (vectoring (plain.setSp 0x01)).Plain (stackSlot (vectoring (plain.setSp 0x01)) 2) ∧
    stackSlot (vectoring (plain.setSp 0x01)) 2 = 0x01FF ∧
    (lawAt plain.map 0xFFFE).onRead = .stored ∧ (lawAt plain.map (0xFFFE + 1)).onRead = .stored := by decide

/-- O53: both vector bytes lie in storage. -/
theorem test_witness_ResetLoadsTheParametersAndTheVector :
    (lawAt State.reset.map State.reset.cfg.resetVector).onRead = .stored ∧
    (lawAt State.reset.map (State.reset.cfg.resetVector + 1)).onRead = .stored := by decide

/-- O54: the first vector byte fails; the first is stored and the second fails. -/
theorem test_witness_FailedResetLeavesPcUnspecified : (lawAt ramOnly 0xFFFC).onRead = .error ∧
    (lawAt (only 0xFFFC 0xFFFC) 0xFFFC).onRead = .stored ∧ (lawAt (only 0xFFFC 0xFFFC) 0xFFFD).onRead = .error := by
  decide

/-- O55: two states that differ in every register and agree in the environment; Reset() answers ok. -/
theorem test_witness_ResetDoesNotDependOnTheStateBefore :
    (machine 0x12 0x34 0x56 0x40 0xE1 0x1234 []).cfg = State.reset.cfg ∧
    (machine 0x12 0x34 0x56 0x40 0xE1 0x1234 []).map = State.reset.map ∧
    (machine 0x12 0x34 0x56 0x40 0xE1 0x1234 []).mem = State.reset.mem ∧
    (machine 0x12 0x34 0x56 0x40 0xE1 0x1234 []).oracleCount = State.reset.oracleCount ∧
    (resetPort State.reset).answer = .resetOk := by decide

/-- O56: two registers that differ; a state with every register specified. -/
theorem test_witness_DebugPortReadsAndWritesRegisters : DebugReg.p ≠ .pc ∧ DebugReg.a ≠ .x ∧
    plain.specified = ⟨true, true, true, true, true, true⟩ ∧ plain.specified.has .pc = true ∧
    plain.specified.has .x = true := by decide

/-- O57: an 8-bit register, unspecified and specified. -/
theorem test_witness_DebugReadIsAsWideAsTheRegister : DebugReg.a ≠ .pc ∧ plain.specified.has .a = true ∧
    (State.powerOn Config.decided Config.flatMap []).specified.has .a = false := by decide

end Sys2Proof.Tests
end

/-!
Settles the statements of spec/00_scope.md: every step from a specified state is answered (O9), and a debug read of
an 8-bit register is a byte (O57).

O9 joins two facts. Every instruction the decoder gives has an opcode byte, so no step is refused. And every body runs
`Steady`: it leaves the specified registers specified and comes to no more extra cycles than its opcode allows, which
with the base counts of spec/30_encoding.md R63 makes 2 to 7.
-/

/-! ## The decoder and the two listings of spec/30_encoding.md R62 -/

namespace Sys2Proof

theorem Instr.opcode_eq_lookup (i : Instr) (h : i.operation ≠ .unsupported) :
    i.opcode = i.operation.encodings.lookup i.mode := by
  cases i with
  | unsupported b => exact absurd rfl h
  | _ => rfl

/-- A listed encoding of an instruction's operation, at the instruction's mode. -/
theorem Instr.mem_encodings {i : Instr} {b : Byte} (hb : i.opcode = some b) (h : i.operation ≠ .unsupported) :
    (i.mode, b) ∈ i.operation.encodings := by
  rw [i.opcode_eq_lookup h, List.lookup_eq_some_iff] at hb
  obtain ⟨l₁, l₂, hl, -⟩ := hb
  simp [hl]

theorem Operation.operation_build (op : Operation) (opcode : Byte) (mode : Mode) (aa bb : Byte) :
    (op.build opcode mode aa bb).operation = op := by
  cases op <;> rfl

/-- The modes whose operand has an effective address (R58). -/
def memoryModes : List Mode := [.zp, .zpx, .zpy, .abs, .abx, .aby, .ind, .izx, .izy]

theorem mode_memForm {mode : Mode} (h : mode ∈ memoryModes) (aa bb : Byte) : (memForm mode aa bb).mode = mode := by
  cases mode with
  | imp | acc | imm | rel | noMode => simp [memoryModes] at h
  | _ => rfl

theorem mode_readForm {mode : Mode} (h : mode ∈ .imm :: memoryModes) (aa bb : Byte) :
    (readForm mode aa bb).mode = mode := by
  unfold readForm
  split
  · next hi => exact hi.symm
  · next hi => exact mode_memForm ((List.mem_cons.1 h).resolve_left hi) aa bb

theorem mode_shiftForm {mode : Mode} (h : mode ∈ .acc :: memoryModes) (aa bb : Byte) :
    (shiftForm mode aa bb).mode = mode := by
  unfold shiftForm
  split
  · next ha => exact ha.symm
  · next ha => exact mode_memForm ((List.mem_cons.1 h).resolve_left ha) aa bb

/-- An operation built at one of its modes is an instruction in that mode. -/
theorem Operation.mode_build {op : Operation} {mode : Mode} (h : mode ∈ op.modes) (opcode aa bb : Byte) :
    (op.build opcode mode aa bb).mode = mode := by
  have inclusion {l l' : List Mode} (hl : l ⊆ l') (hm : mode ∈ l) : mode ∈ l' := hl hm
  cases op with
  | lda | ldx | ldy | adc | sbc | and | ora | eor | cmp | cpx | cpy =>
    exact mode_readForm (inclusion (by decide) h) aa bb
  | asl | lsr | rol | ror => exact mode_shiftForm (inclusion (by decide) h) aa bb
  | sta | stx | sty | inc | dec | bit | jmp => exact mode_memForm (inclusion (by decide) h) aa bb
  | _ => exact (List.mem_singleton.1 h).symm

/-- Each cell of the opcode map pairs an operation with one of its modes. -/
theorem modeOf_mem_modes : ∀ b : Byte, modeOf b ∈ (operationOf b).modes := by
  decide +kernel

/-- The listing by mnemonic gives back the opcode of each cell of the opcode map. -/
theorem lookup_operationOf : ∀ b : Byte, operationOf b ≠ .unsupported →
    (operationOf b).encodings.lookup (modeOf b) = some b := by
  decide +kernel

/-- The opcode map leaves empty only the values that R65 lists. -/
theorem unsupported_of_operationOf : ∀ b : Byte, operationOf b = .unsupported →
    unsupportedOpcodes.contains b = true := by
  decide +kernel

/-- What the decoder assembles is encoded by the opcode byte it was assembled from. -/
theorem opcode_assemble (opcode aa bb : Byte) : (assemble opcode aa bb).opcode = some opcode := by
  have hop : (assemble opcode aa bb).operation = operationOf opcode := Operation.operation_build _ _ _ _ _
  by_cases hu : operationOf opcode = .unsupported
  · have hi : assemble opcode aa bb = .unsupported opcode := by simp only [assemble, hu, Operation.build]
    rw [hi]
    exact if_pos (unsupported_of_operationOf opcode hu)
  · have hm : (assemble opcode aa bb).mode = modeOf opcode := Operation.mode_build (modeOf_mem_modes opcode) _ _ _
    rw [Instr.opcode_eq_lookup _ (hop ▸ hu), hop, hm, lookup_operationOf opcode hu]

/-- The most cycles an instruction can take beyond its base count: one for a page crossing of a sensitive opcode
(spec/40_address_resolver.md R84), two for a branch taken to another page (spec/46_compare_branch_jump.md R173). -/
def extraLimit (mode : Mode) (opcode : Byte) : Nat :=
  (sensitive opcode).toNat + if mode = .rel then 2 else 0

theorem sensitive_le_extraLimit (mode : Mode) (opcode : Byte) : (sensitive opcode).toNat ≤ extraLimit mode opcode :=
  Nat.le_add_right _ _

theorem two_le_extraLimit_rel (opcode : Byte) : 2 ≤ extraLimit .rel opcode :=
  Nat.le_add_left _ _

/-- Every encoding of an official instruction takes 2 to 7 cycles, with the extra cycles it can take. -/
theorem Operation.encodings_cycles (op : Operation) : ∀ e ∈ op.encodings,
    2 ≤ baseCycles e.2 ∧ baseCycles e.2 + extraLimit e.1 e.2 ≤ 7 := by
  cases op <;> decide

end Sys2Proof

/-! ## Runs that leave the specified registers specified -/

namespace Sys2Proof.Machine

/-- The run ends, done or raised, in a state whose specified registers are `r`; where it is done, `P` holds of its
value. -/
def Run.Steady {α : Type} (r : Specified) (P : α → Prop) (run : Run α) : Prop :=
  run.Post (fun v t => P v ∧ t.specified = r) (fun _ t => t.specified = r)

section Steady
variable {r : Specified} {s : State}

theorem Run.Steady.done {α : Type} {P : α → Prop} {v : α} (hv : P v) (h : s.specified = r) :
    (Run.done v s).Steady r P :=
  ⟨hv, h⟩

theorem Run.Steady.bind {α β : Type} {P : α → Prop} {Q : β → Prop} {run : Run α} {k : α → State → Run β}
    (h : run.Steady r P) (hk : ∀ v t, P v → t.specified = r → (k v t).Steady r Q) : (run.bind k).Steady r Q :=
  Run.Post.bind h fun v t hv => hk v t hv.1 hv.2

theorem BusOnly.specified {s t : State} (h : BusOnly s t) : t.specified = s.specified := by
  rw [h]

theorem memRead_steady (addr : Word) (h : s.specified = r) : (memRead addr s).Steady r fun _ => True :=
  (memRead_post addr s).mono (fun _ _ k => ⟨trivial, k.specified.trans h⟩) fun _ _ k => k.1.specified.trans h

theorem memWrite_steady (addr : Word) (v : Byte) (h : s.specified = r) :
    (memWrite addr v s).Steady r fun _ => True :=
  (memWrite_post addr v s).mono (fun _ _ k => ⟨trivial, (congrArg State.specified k.1).trans h⟩)
    fun _ _ k => k.1.specified.trans h

theorem memReadWord_steady (lo hi : Word) (h : s.specified = r) : (memReadWord lo hi s).Steady r fun _ => True :=
  (memReadWord_post lo hi s).mono (fun _ _ k => ⟨trivial, k.specified.trans h⟩) fun _ _ k => k.1.specified.trans h

/-! ### The stack, the trap entry and the trap return -/

theorem push_steady (v : Byte) (h : s.specified = r) : (push v s).Steady r fun _ => True :=
  (memWrite_steady s.stackAddr v h).bind fun _ _ _ ht => .done trivial ht

theorem pull_steady (h : s.specified = r) : (pull s).Steady r fun _ => True :=
  memRead_steady _ h

theorem pushWord_steady (w : Word) (h : s.specified = r) : (pushWord w s).Steady r fun _ => True :=
  (push_steady (highByte w) h).bind fun _ _ _ ht => push_steady (lowByte w) ht

theorem pullWord_steady (h : s.specified = r) : (pullWord s).Steady r fun _ => True :=
  (pull_steady h).bind fun _ _ _ ht => (pull_steady ht).bind fun _ _ _ hu => .done trivial hu

theorem enterTrap_steady (h : s.specified = r) : (enterTrap s).Steady r fun _ => True := by
  refine (pushWord_steady (s.pc + 1) h).bind fun _ t _ ht => ?_
  refine (push_steady (s := t.setP (putFlag .b true t.p)) _ ht).bind fun _ u _ hu => ?_
  exact (memReadWord_steady (s := u.setP (putFlag .i true u.p)) _ _ hu).bind fun _ _ _ hw => .done trivial hw

theorem returnFromTrap_steady (h : s.specified = r) : (returnFromTrap s).Steady r fun _ => True :=
  (pull_steady h).bind fun v t _ ht =>
    (pullWord_steady (s := t.setP (pulledStatus v t.p)) ht).bind fun _ _ _ hu => .done trivial hu

theorem breakAction_steady (h : s.specified = r) : (breakAction s).Steady r fun _ => True := by
  unfold breakAction
  split
  · exact enterTrap_steady h
  · exact .done trivial h

/-! ### Operands -/

/-- An address adds a cycle only where the opcode is sensitive to page crossing. -/
theorem resolve_steady (m : MemForm) (sens : Bool) (h : s.specified = r) :
    (resolve m sens s).Steady r fun e => e.2.toNat ≤ sens.toNat := by
  have crossing (c : Bool) : (sens && c).toNat ≤ sens.toNat := Bool.toNat_le_toNat (Bool.and_le_left sens c)
  cases m with
  | zp | zpx | zpy | abs => exact .done (Nat.zero_le _) h
  | abx | aby => exact .done (crossing _) h
  | ind | izx => exact (memReadWord_steady _ _ h).bind fun _ _ _ ht => .done (Nat.zero_le _) ht
  | izy => exact (memReadWord_steady _ _ h).bind fun _ _ _ ht => .done (crossing _) ht

theorem operandValue_steady (src : ReadForm) (sens : Bool) (h : s.specified = r) :
    (operandValue src sens s).Steady r fun e => e.2.toNat ≤ sens.toNat := by
  cases src with
  | imm => exact .done (Nat.zero_le _) h
  | mem m =>
    exact (resolve_steady m sens h).bind fun e _ he ht =>
      (memRead_steady e.1 ht).bind fun _ _ _ hu => .done he hu

/-! ### Bodies, with the extra cycles they come to -/

theorem registerBody_steady {eff : State → State} (sens : Bool) (h : s.specified = r)
    (heff : ∀ t, (eff t).specified = t.specified) : (registerBody eff sens s).Steady r (· ≤ 0) :=
  .done le_rfl ((heff s).trans h)

theorem plainBody_steady {act : State → Run Unit} (sens : Bool) (hact : (act s).Steady r fun _ => True) :
    (plainBody act sens s).Steady r (· ≤ 0) :=
  hact.bind fun _ _ _ ht => .done le_rfl ht

theorem readBody_steady (src : ReadForm) {eff : Byte → State → State} (sens : Bool) (h : s.specified = r)
    (heff : ∀ v t, (eff v t).specified = t.specified) : (readBody src eff sens s).Steady r (· ≤ sens.toNat) :=
  (operandValue_steady src sens h).bind fun e t he ht => .done he ((heff e.1 t).trans ht)

theorem storeBody_steady (dst : MemForm) (v : Byte) (sens : Bool) (h : s.specified = r) :
    (storeBody dst v sens s).Steady r (· ≤ sens.toNat) :=
  (resolve_steady dst sens h).bind fun e _ he ht => (memWrite_steady e.1 v ht).bind fun _ _ _ hu => .done he hu

theorem modifyBody_steady (dst : MemForm) (f g : Byte → Byte → Byte) (sens : Bool) (h : s.specified = r) :
    (modifyBody dst f g sens s).Steady r (· ≤ sens.toNat) :=
  (resolve_steady dst sens h).bind fun e _ he ht => (memRead_steady e.1 ht).bind fun m u _ hu =>
    (memWrite_steady e.1 (f m u.p) hu).bind fun _ _ _ hw => .done he hw

theorem shiftBody_steady (dst : ShiftForm) (f : Byte → Byte → Byte × Bool) (sens : Bool) (h : s.specified = r) :
    (shiftBody dst f sens s).Steady r (· ≤ sens.toNat) := by
  unfold shiftBody
  split
  · exact .done (Nat.zero_le _) h
  · next m => exact modifyBody_steady m _ _ sens h

theorem branchBody_steady (cond : Bool) (off : Byte) (sens : Bool) (h : s.specified = r) :
    (branchBody cond off sens s).Steady r (· ≤ 2) := by
  unfold branchBody
  split
  · have hcross := Bool.toNat_le (crosses s.pc (branchTarget s.pc off))
    exact .done (by omega) h
  · exact .done (Nat.zero_le _) h

end Steady

/-! ## How a step is answered -/

/-- The outcome is a next state in which the specified registers are `r` and whose answer is a cycle count from 2 to 7
or a fault record. -/
def IsAnswered (r : Specified) (o : Host.Outcome State Fault Refusal) : Prop :=
  ∃ t, o = .next t ∧ t.specified = r ∧
    ((∃ n, t.answer = .cycles n ∧ 2 ≤ n ∧ n ≤ 7) ∨ ∃ f, t.answer = .fault f)

section Answered
variable {r : Specified} {s : State}

theorem raiseFault_isAnswered (f : Fault) (h : s.specified = r) : IsAnswered r (raiseFault f s) :=
  ⟨s.answered (.fault f), rfl, h, .inr ⟨f, rfl⟩⟩

theorem conclude_isAnswered {base limit : Nat} {run : Run Nat} (h : run.Steady r (· ≤ limit)) (hlo : 2 ≤ base)
    (hhi : base + limit ≤ 7) : IsAnswered r (conclude base run) := by
  cases run with
  | done n t =>
    obtain ⟨hn, ht⟩ := h
    exact ⟨t.answered (.cycles (base + n)), rfl, ht, .inl ⟨base + n, rfl, by omega, by omega⟩⟩
  | raised f t => exact raiseFault_isAnswered f h

/-- An official instruction whose body is steady, within the extra cycles of its opcode, is answered. -/
theorem runInstr_isAnswered {i : Instr} {b : Byte} {body : Bool → State → Run Nat} {limit : Nat}
    (hb : i.opcode = some b) (hi : i.operation ≠ .unsupported) (h : (body (sensitive b) s).Steady r (· ≤ limit))
    (hlimit : limit ≤ extraLimit i.mode b) : IsAnswered r (runInstr i body s) := by
  obtain ⟨hlo, hhi⟩ := i.operation.encodings_cycles (i.mode, b) (Instr.mem_encodings hb hi)
  rw [runInstr_eq i b body s hb]
  exact conclude_isAnswered h hlo (le_trans (Nat.add_le_add_left hlimit _) hhi)

/-- Every instruction that has an opcode byte is answered: by the body its meaning runs. -/
theorem exec_isAnswered {i : Instr} {b : Byte} (hb : i.opcode = some b) (h : s.specified = r) :
    IsAnswered r (exec i s) := by
  cases i with
  | tax | tay | txa | tya | tsx | txs | inx | iny | dex | dey | clc | sec | cli | sei | clv | cld | sed | nop =>
    dsimp only [exec]
    exact runInstr_isAnswered hb nofun (registerBody_steady _ h fun _ => rfl) (Nat.zero_le _)
  | lda src | ldx src | ldy src | adc src | sbc src | and src | ora src | eor src | cmp src | cpx src | cpy src =>
    exact runInstr_isAnswered hb nofun (readBody_steady src _ h fun _ _ => rfl) (sensitive_le_extraLimit _ b)
  | bit src =>
    exact runInstr_isAnswered hb nofun (readBody_steady (.mem src) _ h fun _ _ => rfl) (sensitive_le_extraLimit _ b)
  | sta dst | stx dst | sty dst =>
    exact runInstr_isAnswered hb nofun (storeBody_steady dst _ _ h) (sensitive_le_extraLimit _ b)
  | inc dst | dec dst =>
    exact runInstr_isAnswered hb nofun (modifyBody_steady dst _ _ _ h) (sensitive_le_extraLimit _ b)
  | asl dst | lsr dst | rol dst | ror dst =>
    exact runInstr_isAnswered hb nofun (shiftBody_steady dst _ _ h) (sensitive_le_extraLimit _ b)
  | bcc off | bcs off | beq off | bmi off | bne off | bpl off | bvc off | bvs off =>
    exact runInstr_isAnswered hb nofun (branchBody_steady _ off _ h) (two_le_extraLimit_rel b)
  | jmp dst =>
    dsimp only [exec]
    exact runInstr_isAnswered hb nofun
      ((resolve_steady dst _ h).bind fun _ _ he ht => .done he ht) (sensitive_le_extraLimit _ b)
  | jsr dst =>
    exact runInstr_isAnswered hb nofun
      (plainBody_steady _ ((pushWord_steady _ h).bind fun _ _ _ ht => .done trivial ht)) (Nat.zero_le _)
  | rts =>
    exact runInstr_isAnswered hb nofun
      (plainBody_steady _ ((pullWord_steady h).bind fun _ _ _ ht => .done trivial ht)) (Nat.zero_le _)
  | pha | php => exact runInstr_isAnswered hb nofun (plainBody_steady _ (push_steady _ h)) (Nat.zero_le _)
  | pla | plp =>
    exact runInstr_isAnswered hb nofun
      (plainBody_steady _ ((pull_steady h).bind fun _ _ _ ht => .done trivial ht)) (Nat.zero_le _)
  | brk => exact runInstr_isAnswered hb nofun (plainBody_steady _ (breakAction_steady h)) (Nat.zero_le _)
  | rti => exact runInstr_isAnswered hb nofun (plainBody_steady _ (returnFromTrap_steady h)) (Nat.zero_le _)
  | unsupported opcode =>
    simp only [exec, execUnsupported, hb]
    exact raiseFault_isAnswered _ h

end Answered

theorem PcAndBusOnly.specified {s t : State} (h : PcAndBusOnly s t) : t.specified = s.specified := by
  rw [h]

/-- Settles O9: the fetch raises or gives an instruction with an opcode byte, and each is answered. -/
theorem everyStepIsAnswered : Obligations.EveryStepIsAnswered := by
  intro s hs
  have hfetch := fetch_post s.beginRequest
  have answered : IsAnswered s.specified (step s) := by
    rw [step_eq s hs]
    cases hr : fetch s.beginRequest with
    | raised f t =>
      rw [hr] at hfetch
      exact raiseFault_isAnswered f hfetch.1.specified
    | done i t =>
      rw [hr] at hfetch
      obtain ⟨ht, opcode, aa, bb, rfl⟩ := hfetch
      exact exec_isAnswered (opcode_assemble opcode aa bb) ht.specified
  obtain ⟨t, ht, hspec, hanswer⟩ := answered
  exact ⟨t, ht, hspec ▸ hs, hanswer⟩

/-! ## The width of a debug read -/

theorem zeroExtend16_lt (v : Byte) : (zeroExtend16 v).toNat < 256 := by
  rw [toNat_zeroExtend16]
  exact v.isLt

theorem State.register_lt {reg : DebugReg} (h : reg ≠ .pc) (s : State) : (s.register reg).toNat < 256 := by
  cases reg with
  | pc => exact absurd rfl h
  | a | x | y | s | p => exact zeroExtend16_lt _

theorem DebugReg.unspecified_lt {reg : DebugReg} (h : reg ≠ .pc) : reg.unspecified.toNat < 256 := by
  cases reg with
  | pc => exact absurd rfl h
  | a | x | y | s | p => exact zeroExtend16_lt _

/-- Settles O57: a specified register answers its byte, and an unspecified one a free byte. -/
theorem debugReadIsAsWideAsTheRegister : Obligations.DebugReadIsAsWideAsTheRegister := by
  intro reg s h
  unfold debugRead
  split
  · exact State.register_lt h s
  · exact DebugReg.unspecified_lt h

end Sys2Proof.Machine

/-!
Settles the statements of spec/10_state.md. Their common part is `Frame`: what an instruction may change is said once,
by the footprint that R34's table (with R64's masks and the stored addresses) gives it, and `exec_frame` proves that
every instruction stays within its footprint. O18 and O19 read it off; O13, O15 and O16 need of it only what no step
changes, `Kept`.
-/

namespace Sys2Proof.Machine
open Claims

/-! ## What the flag functions keep -/

theorem keepsOther_putFlag (g : Flag) (val : Bool) (p : Byte) : KeepsOther [g] p (putFlag g val p) := by
  intro f hf
  rw [getFlag_putFlag, if_neg (by simpa using hf)]

theorem keepsOther_setNZ (v p : Byte) : KeepsOther [.n, .z] p (setNZ v p) :=
  fun f hf => by simp_all

theorem keepsOther_addFlags (first second : Byte) (sum : BitVec 9) (p : Byte) :
    KeepsOther [.n, .v, .z, .c] p (addFlags first second sum p) :=
  fun f hf => by simp_all

theorem keepsOther_compareFlags (r m p : Byte) : KeepsOther [.n, .z, .c] p (compareFlags r m p) :=
  fun f hf => by simp_all

theorem keepsOther_bitFlags (a m p : Byte) : KeepsOther [.n, .v, .z] p (bitFlags a m p) :=
  fun f hf => by simp_all

theorem keepsOther_shiftFlags (v : Byte) (cout : Bool) (p : Byte) : KeepsOther [.n, .z, .c] p (shiftFlags v cout p) :=
  fun f hf => by simp_all

/-- From P = `p` to P = `q`, only the flags of `fs` were written, the unused bit forced at most; an empty mask leaves P
alone; and B and the unused bit were not cleared (spec/10_state.md R22 to R24, spec/30_encoding.md R64). -/
structure FlagFrame (fs : List Flag) (p q : Byte) : Prop where
  untouched : fs = [] → q = p
  other : ∀ f ∉ fs, f ≠ .u → getFlag f q = getFlag f p
  sticky : ∀ f ∈ [Flag.b, Flag.u], getFlag f p = true → getFlag f q = true

theorem FlagFrame.refl (fs : List Flag) (p : Byte) : FlagFrame fs p p :=
  ⟨fun _ => rfl, fun _ _ _ => rfl, fun _ _ h => h⟩

theorem FlagFrame.trans {fs : List Flag} {p q r : Byte} (h : FlagFrame fs p q) (k : FlagFrame fs q r) :
    FlagFrame fs p r where
  untouched e := (k.untouched e).trans (h.untouched e)
  other f hf hu := (k.other f hf hu).trans (h.other f hf hu)
  sticky f hf hp := k.sticky f hf (h.sticky f hf hp)

/-- A mask without B and the unused bit: what keeps every flag outside it stays within it. -/
theorem FlagFrame.of_keepsOther {fs : List Flag} {p q : Byte} (h : KeepsOther fs p q)
    (hfs : ∀ f ∈ [Flag.b, Flag.u], f ∉ fs) : FlagFrame fs p q where
  untouched e := eq_of_getFlag_eq q p fun f => h f (by simp [e])
  other f hf _ := h f hf
  sticky f hf hp := (h f (hfs f hf)).trans hp

theorem FlagFrame.setNZ (v p : Byte) : FlagFrame [.n, .z] p (setNZ v p) :=
  .of_keepsOther (keepsOther_setNZ v p) (by decide)

theorem FlagFrame.addFlags (first second : Byte) (sum : BitVec 9) (p : Byte) :
    FlagFrame [.n, .v, .z, .c] p (addFlags first second sum p) :=
  .of_keepsOther (keepsOther_addFlags first second sum p) (by decide)

theorem FlagFrame.compareFlags (r m p : Byte) : FlagFrame [.n, .z, .c] p (compareFlags r m p) :=
  .of_keepsOther (keepsOther_compareFlags r m p) (by decide)

theorem FlagFrame.bitFlags (a m p : Byte) : FlagFrame [.n, .v, .z] p (bitFlags a m p) :=
  .of_keepsOther (keepsOther_bitFlags a m p) (by decide)

theorem FlagFrame.shiftFlags (v : Byte) (cout : Bool) (p : Byte) : FlagFrame [.n, .z, .c] p (shiftFlags v cout p) :=
  .of_keepsOther (keepsOther_shiftFlags v cout p) (by decide)

theorem FlagFrame.put {g : Flag} (hg : ∀ f ∈ [Flag.b, Flag.u], f ∉ [g]) (val : Bool) (p : Byte) :
    FlagFrame [g] p (putFlag g val p) :=
  .of_keepsOther (keepsOther_putFlag g val p) hg

/-- Setting a flag of the mask clears none. -/
theorem FlagFrame.set {fs : List Flag} {g : Flag} (hg : g ∈ fs) (p : Byte) : FlagFrame fs p (putFlag g true p) where
  untouched e := by simp [e] at hg
  other f hf _ := by rw [getFlag_putFlag, if_neg (ne_of_mem_of_not_mem hg hf).symm]
  sticky f _ hp := by simp [hp]

/-- PLP and RTI write every flag but B, and force the unused bit. -/
theorem FlagFrame.pulledStatus (v p : Byte) : FlagFrame [.n, .v, .d, .i, .z, .c] p (pulledStatus v p) where
  untouched e := by simp at e
  other f hf hu := by
    obtain rfl : f = .b := by cases f <;> simp at hf hu ⊢
    simp
  sticky f hf hp := by
    obtain rfl | rfl : f = .b ∨ f = .u := by simpa using hf
    · simpa using hp
    · simp

/-! ## Footprints (spec/10_state.md R34) -/

/-- What may be written: registers, flags of P, and addresses stored to. -/
structure Footprint where
  a : Bool
  x : Bool
  y : Bool
  sp : Bool
  pc : Bool
  flags : List Flag
  stores : List Word

/-- The footprint of an instruction, by R34's table, in the state it runs in. -/
def footprint (i : Instr) (s : State) : Footprint where
  a := writesA i
  x := writesX i
  y := writesY i
  sp := writesS s.cfg.brkVectoring i
  pc := writesPc s.cfg.brkVectoring i
  flags := i.operation.flagMask s.cfg.brkVectoring
  stores := storedAddresses i s

/-- From `s` to `t`, nothing outside the footprint changed but what the bus did and the answer. -/
structure Frame (w : Footprint) (s t : State) : Prop where
  a : w.a = false → t.a = s.a
  x : w.x = false → t.x = s.x
  y : w.y = false → t.y = s.y
  sp : w.sp = false → t.sp = s.sp
  pc : w.pc = false → t.pc = s.pc
  p : FlagFrame w.flags s.p t.p
  mem : MemFrame s.map w.stores s.mem t.mem
  cfg : t.cfg = s.cfg
  map : t.map = s.map
  specified : t.specified = s.specified

section Frame
variable {w : Footprint} {s t u : State}

/-- The bus may have drawn answers and noted transactions, and storage may have changed where the footprint allows. -/
theorem Frame.bus {m : List Host.Cell} (n : Nat) (tr : List BusTxn) (hm : MemFrame s.map w.stores s.mem m) :
    Frame w s { s with mem := m, oracleCount := n, trace := tr } :=
  ⟨fun _ => rfl, fun _ => rfl, fun _ => rfl, fun _ => rfl, fun _ => rfl, .refl _ _, hm, rfl, rfl, rfl⟩

theorem Frame.of_busOnly (h : BusOnly s t) : Frame w s t := by
  rw [h]
  exact .bus _ _ (.refl _ _ _)

theorem Frame.refl (w : Footprint) (s : State) : Frame w s s :=
  .of_busOnly (.refl s)

theorem Frame.trans (h : Frame w s t) (k : Frame w t u) : Frame w s u where
  a e := (k.a e).trans (h.a e)
  x e := (k.x e).trans (h.x e)
  y e := (k.y e).trans (h.y e)
  sp e := (k.sp e).trans (h.sp e)
  pc e := (k.pc e).trans (h.pc e)
  p := h.p.trans k.p
  mem := h.mem.trans (h.map ▸ k.mem)
  cfg := k.cfg.trans h.cfg
  map := k.map.trans h.map
  specified := k.specified.trans h.specified

theorem Frame.setA (h : Frame w s t) (hw : w.a = true) (v : Byte) : Frame w s (t.setA v) :=
  { h with a := fun e => absurd (hw.symm.trans e) nofun }

theorem Frame.setX (h : Frame w s t) (hw : w.x = true) (v : Byte) : Frame w s (t.setX v) :=
  { h with x := fun e => absurd (hw.symm.trans e) nofun }

theorem Frame.setY (h : Frame w s t) (hw : w.y = true) (v : Byte) : Frame w s (t.setY v) :=
  { h with y := fun e => absurd (hw.symm.trans e) nofun }

theorem Frame.setSp (h : Frame w s t) (hw : w.sp = true) (v : Byte) : Frame w s (t.setSp v) :=
  { h with sp := fun e => absurd (hw.symm.trans e) nofun }

theorem Frame.setPc (h : Frame w s t) (hw : w.pc = true) (v : Word) : Frame w s (t.setPc v) :=
  { h with pc := fun e => absurd (hw.symm.trans e) nofun }

theorem Frame.setP (h : Frame w s t) {q : Byte} (hq : FlagFrame w.flags t.p q) : Frame w s (t.setP q) :=
  { h with p := h.p.trans hq }

theorem Frame.addToA (h : Frame w s t) (ha : w.a = true) (hf : w.flags = [.n, .v, .z, .c]) (m : Byte) :
    Frame w s (addToA m t) :=
  (h.setA ha _).setP (hf ▸ .addFlags _ _ _ _)

theorem Frame.answered (h : Frame w s t) (r : Answer) : Frame w s (t.answered r) :=
  { h with }

/-- The stack address in a state within the frame, after `k` pushes. -/
theorem Frame.stackAddr {k : Byte} (h : Frame w s t) (hk : t.sp = s.sp - k) : t.stackAddr = stackSlot s k := by
  rw [State.stackAddr, stackSlot, h.cfg, hk]

/-! ## Runs within a footprint -/

/-- Done or raised, the run ends in a state within the frame. -/
def Run.Within {α : Type} (w : Footprint) (s : State) (run : Run α) : Prop :=
  run.Post (fun _ t => Frame w s t) fun _ t => Frame w s t

theorem Run.Within.bind {α β : Type} {run : Run α} {k : α → State → Run β} (h : run.Within w s)
    (hk : ∀ v t, Frame w s t → (k v t).Within w s) : (run.bind k).Within w s :=
  Run.Post.bind h hk

theorem memReadWord_within (lo hi : Word) (h : Frame w s t) : (memReadWord lo hi t).Within w s :=
  (memReadWord_post lo hi t).mono (fun _ _ k => h.trans (.of_busOnly k)) fun _ _ k => h.trans (.of_busOnly k.1)

theorem resolve_within (m : MemForm) (sens : Bool) (h : Frame w s t) : (resolve m sens t).Within w s :=
  (resolve_post m sens t).mono (fun _ _ k => h.trans (.of_busOnly k)) fun _ _ k => h.trans (.of_busOnly k.1)

theorem pull_within (hw : w.sp = true) (h : Frame w s t) : (pull t).Within w s :=
  have hsp := h.setSp hw (t.sp + 1)
  (pull_post t).mono (fun _ _ k => hsp.trans (.of_busOnly k)) fun _ _ k => hsp.trans (.of_busOnly k.1)

theorem pullWord_within (hw : w.sp = true) (h : Frame w s t) : (pullWord t).Within w s :=
  (pull_within hw h).bind fun _ _ ht => (pull_within hw ht).bind fun _ _ hu => hu

/-- A push that is the `k`-th after `s`, counted from 0. -/
theorem push_frame {k : Byte} (v : Byte) (hw : w.sp = true) (h : Frame w s t) (hk : t.sp = s.sp - k)
    (hslot : stackSlot s k ∈ w.stores) :
    (push v t).Post (fun _ u => Frame w s u ∧ u.sp = s.sp - (k + 1)) fun _ u => Frame w s u := by
  refine (push_post v t).mono (fun _ u hu => ?_) fun _ _ hu => h.trans (.of_busOnly hu.1)
  obtain ⟨hu, hmem⟩ := hu
  rw [h.stackAddr hk] at hmem
  have hmem : MemFrame t.map w.stores t.mem u.mem := hmem.mono (by simpa using hslot)
  rw [hu]
  exact ⟨h.trans ((Frame.bus u.oracleCount u.trace hmem).setSp hw _), by rw [hk]; exact BitVec.sub_sub _ _ _⟩

theorem push_within (v : Byte) (hw : w.sp = true) (hslot : stackSlot s 0 ∈ w.stores) : (push v s).Within w s :=
  (push_frame v hw (.refl w s) (BitVec.sub_zero _).symm hslot).mono (fun _ _ h => h.1) fun _ _ h => h

theorem pushWord_frame (v : Word) (hw : w.sp = true) (h0 : stackSlot s 0 ∈ w.stores)
    (h1 : stackSlot s 1 ∈ w.stores) :
    (pushWord v s).Post (fun _ u => Frame w s u ∧ u.sp = s.sp - 2) fun _ u => Frame w s u :=
  (push_frame _ hw (.refl w s) (BitVec.sub_zero _).symm h0).bind fun _ _ ⟨ht, hsp⟩ => push_frame _ hw ht hsp h1

theorem pushWord_within (v : Word) (hw : w.sp = true) (h0 : stackSlot s 0 ∈ w.stores)
    (h1 : stackSlot s 1 ∈ w.stores) : (pushWord v s).Within w s :=
  (pushWord_frame v hw h0 h1).mono (fun _ _ h => h.1) fun _ _ h => h

theorem returnFromTrap_within (hsp : w.sp = true) (hpc : w.pc = true)
    (hflags : ∀ v p, FlagFrame w.flags p (pulledStatus v p)) : (returnFromTrap s).Within w s :=
  (pull_within hsp (.refl w s)).bind fun _ _ ht =>
    (pullWord_within hsp (ht.setP (hflags _ _))).bind fun _ _ hu => hu.setPc hpc _

theorem enterTrap_within (hsp : w.sp = true) (hpc : w.pc = true) (hb : .b ∈ w.flags) (hi : .i ∈ w.flags)
    (h0 : stackSlot s 0 ∈ w.stores) (h1 : stackSlot s 1 ∈ w.stores) (h2 : stackSlot s 2 ∈ w.stores) :
    (enterTrap s).Within w s :=
  (pushWord_frame (s.pc + 1) hsp h0 h1).bind fun _ _ ⟨ht, hk⟩ =>
    (push_frame _ hsp (ht.setP (.set hb _)) hk h2).bind fun _ _ ⟨hu, _⟩ =>
      (memReadWord_within _ _ (hu.setP (.set hi _))).bind fun _ _ hv => hv.setPc hpc _

/-! ### Bodies -/

theorem readBody_within {src : ReadForm} {eff : Byte → State → State} {sens : Bool}
    (heff : ∀ m t, Frame w t (eff m t)) : (readBody src eff sens s).Within w s := by
  refine (readBody_post src eff sens s).mono (fun _ u hu => ?_) fun _ _ k => .of_busOnly k.1
  obtain ⟨-, m, t, ht, rfl⟩ := hu
  exact (Frame.of_busOnly ht).trans (heff m t)

/-- Whether the page-crossing cycle is due does not move the effective address. -/
theorem resolved_of_resolve {m : MemForm} {sens : Bool} {r : Word × Bool} (h : resolve m sens s = .done r t) :
    resolved m s = [r.1] := by
  cases m with
  | zp | zpx | zpy | abs | abx | aby =>
    obtain ⟨rfl, rfl⟩ := Run.done.inj h
    rfl
  | ind | izx => rw [resolved, show resolve _ false s = .done r t from h]
  | izy aa =>
    simp only [resolve, resolved] at h ⊢
    cases hr : memReadWord (zeroExtend16 aa) (zeroExtend16 (aa + 1)) s with
    | raised f u =>
      rw [hr] at h
      cases h
    | done base u =>
      rw [hr] at h
      obtain ⟨rfl, rfl⟩ := Run.done.inj h
      rfl

theorem storeBody_within {dst : MemForm} {v : Byte} {sens : Bool} (hw : w.stores = resolved dst s) :
    (storeBody dst v sens s).Within w s := by
  refine (storeBody_post dst v sens s).mono (fun _ u hu => ?_) fun _ _ k => .of_busOnly k.1
  obtain ⟨-, hu, r, t, hr, hmem⟩ := hu
  rw [← resolved_of_resolve hr, ← hw] at hmem
  rw [hu]
  exact .bus _ _ hmem

theorem modifyBody_within {dst : MemForm} {f g : Byte → Byte → Byte} {sens : Bool} (hw : w.stores = resolved dst s)
    (hg : ∀ m p, FlagFrame w.flags p (g m p)) : (modifyBody dst f g sens s).Within w s := by
  refine (modifyBody_post dst f g sens s).mono (fun _ u hu => ?_) fun _ _ k => .of_busOnly k.1
  obtain ⟨-, ⟨m, hu⟩, r, t, hr, hmem⟩ := hu
  rw [← resolved_of_resolve hr, ← hw] at hmem
  rw [hu]
  exact (Frame.bus _ _ hmem).setP (hg m s.p)

theorem shiftBody_within {dst : ShiftForm} {f : Byte → Byte → Byte × Bool} {sens : Bool}
    (ha : dst = .acc → w.a = true) (hm : ∀ m, dst = .mem m → w.stores = resolved m s) (hf : w.flags = [.n, .z, .c]) :
    (shiftBody dst f sens s).Within w s := by
  have hflags (v : Byte) (cout : Bool) (p : Byte) : FlagFrame w.flags p (shiftFlags v cout p) :=
    hf ▸ .shiftFlags v cout p
  cases dst with
  | acc => exact ((Frame.refl w s).setA (ha rfl) _).setP (hflags _ _ _)
  | mem m =>
    rw [shiftBody]
    exact modifyBody_within (hm m rfl) fun v p => hflags (f v p).1 (f v p).2 p

theorem branchBody_within {cond : Bool} {off : Byte} {sens : Bool} (hw : w.pc = true) :
    (branchBody cond off sens s).Within w s := by
  unfold branchBody
  split
  · exact (Frame.refl w s).setPc hw _
  · exact Frame.refl w s

theorem plainBody_within {act : State → Run Unit} {sens : Bool} (h : (act s).Within w s) :
    (plainBody act sens s).Within w s :=
  h.bind fun _ _ ht => ht

theorem runInstr_frame {i : Instr} {body : Bool → State → Run Nat} (h : runInstr i body s = .next t)
    (hb : ∀ sens, (body sens s).Within w s) : Frame w s t :=
  runInstr_post h (fun _ r hu => hu.answered r) hb

end Frame

/-! ## Every instruction stays within its footprint -/

/-- BRK writes B; with `BRK_VECTORING` on it also writes S, PC, I and the three slots it pushes to (R203). -/
theorem breakAction_within (s : State) : (breakAction s).Within (footprint .brk s) s := by
  unfold breakAction
  split
  · next hv =>
    have hw : footprint .brk s = ⟨false, false, false, true, true, [.b, .i],
        [stackSlot s 0, stackSlot s 1, stackSlot s 2]⟩ := by
      simp only [footprint, storedAddresses, hv]
      rfl
    rw [hw]
    exact enterTrap_within rfl rfl (by simp) (by simp) (by simp) (by simp) (by simp)
  · next hv =>
    have hb : .b ∈ (footprint .brk s).flags := by simp [footprint, Instr.operation, Operation.flagMask, hv]
    exact (Frame.refl _ s).setP (.set hb s.p)

/-- What an instruction does lies within its footprint. -/
theorem exec_frame {i : Instr} {s t : State} (h : exec i s = .next t) : Frame (footprint i s) s t := by
  unfold exec at h
  cases i with
  | txa | tya =>
    exact runInstr_frame h fun _ => ((Frame.refl _ s).setA rfl _).setP (.setNZ _ _)
  | tax | tsx | inx | dex =>
    exact runInstr_frame h fun _ => ((Frame.refl _ s).setX rfl _).setP (.setNZ _ _)
  | tay | iny | dey =>
    exact runInstr_frame h fun _ => ((Frame.refl _ s).setY rfl _).setP (.setNZ _ _)
  | txs => exact runInstr_frame h fun _ => (Frame.refl _ s).setSp rfl _
  | nop => exact runInstr_frame h fun _ => Frame.refl _ s
  | clc | sec | cli | sei | clv | cld | sed =>
    exact runInstr_frame h fun _ => (Frame.refl _ s).setP (.put (by decide) _ _)
  | lda src | and src | ora src | eor src =>
    exact runInstr_frame h fun _ => readBody_within fun _ u =>
      ((Frame.refl _ u).setA rfl _).setP (.setNZ _ _)
  | ldx src =>
    exact runInstr_frame h fun _ => readBody_within fun _ u =>
      ((Frame.refl _ u).setX rfl _).setP (.setNZ _ _)
  | ldy src =>
    exact runInstr_frame h fun _ => readBody_within fun _ u =>
      ((Frame.refl _ u).setY rfl _).setP (.setNZ _ _)
  | adc src | sbc src =>
    exact runInstr_frame h fun _ => readBody_within fun _ u => (Frame.refl _ u).addToA rfl rfl _
  | cmp src | cpx src | cpy src =>
    exact runInstr_frame h fun _ => readBody_within fun _ u => (Frame.refl _ u).setP (.compareFlags _ _ _)
  | bit src =>
    exact runInstr_frame h fun _ => readBody_within fun _ u => (Frame.refl _ u).setP (.bitFlags _ _ _)
  | sta dst | stx dst | sty dst => exact runInstr_frame h fun _ => storeBody_within rfl
  | inc dst | dec dst => exact runInstr_frame h fun _ => modifyBody_within rfl fun _ _ => .setNZ _ _
  | asl dst | lsr dst | rol dst | ror dst =>
    exact runInstr_frame h fun _ => shiftBody_within (fun e => e ▸ rfl) (fun _ e => e ▸ rfl) rfl
  | bcc off | bcs off | beq off | bmi off | bne off | bpl off | bvc off | bvs off =>
    exact runInstr_frame h fun _ => branchBody_within rfl
  | jmp dst =>
    exact runInstr_frame h fun sens => (resolve_within dst sens (.refl _ s)).bind fun _ _ ht => ht.setPc rfl _
  | jsr dst =>
    exact runInstr_frame h fun _ => plainBody_within <|
      (pushWord_within _ rfl (.head _) (.tail _ (.head _))).bind fun _ _ ht => ht.setPc rfl _
  | rts =>
    exact runInstr_frame h fun _ => plainBody_within <|
      (pullWord_within rfl (.refl _ s)).bind fun _ _ ht => ht.setPc rfl _
  | pha | php => exact runInstr_frame h fun _ => plainBody_within (push_within _ rfl (.head _))
  | pla =>
    exact runInstr_frame h fun _ => plainBody_within <|
      (pull_within rfl (.refl _ s)).bind fun _ _ ht => (ht.setA rfl _).setP (.setNZ _ _)
  | plp =>
    exact runInstr_frame h fun _ => plainBody_within <|
      (pull_within rfl (.refl _ s)).bind fun _ _ ht => ht.setP (.pulledStatus _ _)
  | brk => exact runInstr_frame h fun _ => plainBody_within (breakAction_within s)
  | rti => exact runInstr_frame h fun _ => plainBody_within (returnFromTrap_within rfl rfl .pulledStatus)
  | unsupported opcode =>
    have h : execUnsupported opcode s = .next t := h
    unfold execUnsupported at h
    split at h
    · obtain rfl := Host.Outcome.next.inj h
      exact (Frame.refl _ s).answered _
    · cases h

/-- Settles O18: the register columns of the footprint. -/
theorem registersUnchangedUnlessWritten : Obligations.RegistersUnchangedUnlessWritten := by
  intro i s t h
  have hf := exec_frame h
  exact ⟨hf.a, hf.x, hf.y, hf.sp, hf.p.untouched, hf.pc, hf.cfg, hf.map, hf.specified⟩

/-- Settles O19: an address whose cell is none of the stored ones'. -/
theorem memoryUnchangedOutsideStores : Obligations.MemoryUnchangedOutsideStores := by
  intro i s t addr h hne
  have hf := exec_frame h
  rw [State.byteAt, State.byteAt, hf.map]
  exact hf.mem.2 _ fun a ha _ e => hne a ha ((cellOf_eq_iff s.map addr a).1 e.symm)

/-! ## What every step keeps -/

/-- What no step loses: the canonical form of storage, a B and an unused bit that are set, the map, and which
registers are specified. -/
structure Kept (s t : State) : Prop where
  memWf : memWf s.mem → memWf t.mem
  sticky : ∀ f ∈ [Flag.b, Flag.u], s.flag f = true → t.flag f = true
  map : t.map = s.map
  specified : t.specified = s.specified

theorem Kept.trans {s t u : State} (h : Kept s t) (k : Kept t u) : Kept s u where
  memWf hm := k.memWf (h.memWf hm)
  sticky f hf hs := k.sticky f hf (h.sticky f hf hs)
  map := k.map.trans h.map
  specified := k.specified.trans h.specified

theorem Frame.kept {w : Footprint} {s t : State} (h : Frame w s t) : Kept s t :=
  ⟨h.mem.1, h.p.sticky, h.map, h.specified⟩

theorem PcAndBusOnly.kept {s t : State} (h : PcAndBusOnly s t) : Kept s t := by
  rw [h]
  exact ⟨id, fun _ _ hs => hs, rfl, rfl⟩

/-- A step that gives a next state fetched, from a machine whose registers are all specified: the fetch raised and
its fault was answered, or it came to an instruction and that ran. -/
theorem step_next {s t : State} (h : step s = .next t) : s.specified.all = true ∧
    ∃ u, PcAndBusOnly s u ∧ ((∃ f, t = u.answered (.fault f)) ∨ ∃ i, exec i u = .next t) := by
  by_cases hs : s.specified.all = true
  · rw [step_eq s hs] at h
    have hfetch := fetch_post s.beginRequest
    cases hr : fetch s.beginRequest with
    | raised f u =>
      rw [hr] at h hfetch
      exact ⟨hs, u, hfetch.1, .inl ⟨f, (Host.Outcome.next.inj h).symm⟩⟩
    | done i u =>
      rw [hr] at h hfetch
      exact ⟨hs, u, hfetch.1, .inr ⟨i, h⟩⟩
  · simp [step, hs] at h

theorem step_kept {s t : State} (h : step s = .next t) : Kept s t := by
  obtain ⟨-, u, hu, ⟨f, rfl⟩ | ⟨i, hi⟩⟩ := step_next h
  · exact { hu.kept with }
  · exact hu.kept.trans (exec_frame hi).kept

/-- Settles O13: each part of the invariant is kept. -/
theorem stepKeepsInvariant : Obligations.StepKeepsInvariant := by
  intro s t ⟨hmem, hmap, hu, hspec⟩ h
  have hk := step_kept h
  exact ⟨hk.memWf hmem, hk.map ▸ hmap, hk.sticky .u (by decide) hu, hk.specified ▸ hspec⟩

/-- Only BRK has B in its mask (spec/30_encoding.md R64). -/
theorem b_not_mem_flagMask {op : Operation} (h : op ≠ .brk) (on : Bool) : .b ∉ op.flagMask on := by
  cases op <;> simp [Operation.flagMask] at h ⊢

/-- Settles O16: no step clears B, and B is outside the mask of every operation but BRK. -/
theorem breakIsNeverCleared : Obligations.BreakIsNeverCleared := by
  refine ⟨fun s t hb h => (step_kept h).sticky .b (by decide) hb, fun i s t hi h => ?_⟩
  have hop : i.operation ≠ .brk := by
    cases i with
    | brk => exact absurd rfl hi
    | _ => exact nofun
  exact (exec_frame h).p.other .b (b_not_mem_flagMask hop _) nofun

/-! ## The unused bit after a request of the host -/

theorem getFlag_u_forced (v : Byte) : getFlag .u (v ||| 0x20) = true := by
  simp [getFlag, flagBit]

theorem BusOnly.p {s t : State} (h : BusOnly s t) : t.p = s.p := by
  rw [h]

theorem resetPort_p (s : State) : (resetPort s).p = s.cfg.resetP ||| 0x20 := by
  have hread := memReadWord_post s.cfg.resetVector (s.cfg.resetVector + 1) s.beginRequest.resetRegisters
  unfold resetPort
  split
  · next hr =>
    rw [hr] at hread
    exact BusOnly.p hread
  · next hr =>
    rw [hr] at hread
    exact BusOnly.p hread.1

/-- Settles O15: `Reset()` and a debug write of P force the bit, and no other request writes it as 0. -/
theorem unusedBitIsAlwaysOne : Obligations.UnusedBitIsAlwaysOne := by
  refine ⟨fun s => ?_, fun s v => getFlag_u_forced _, fun s reg v hu => ?_,
    fun s t hu h => (step_kept h).sticky .u (by decide) hu⟩
  · rw [State.flag, resetPort_p]
    exact getFlag_u_forced _
  · cases reg with
    | p => exact getFlag_u_forced _
    | a | x | y | s | pc => exact hu

/-! ## Addition and subtraction do not read D -/

/-- The run with its states changed. -/
def Run.mapState {α : Type} (g : State → State) : Run α → Run α
  | .done v s => .done v (g s)
  | .raised f s => .raised f (g s)

theorem Run.mapState_bind {α β : Type} {g : State → State} {r : Run α} {k k' : α → State → Run β}
    (h : ∀ v s, k v (g s) = (k' v s).mapState g) : (r.mapState g).bind k = (r.bind k').mapState g := by
  cases r with
  | done v s => exact h v s
  | raised f s => rfl

section SetP
variable (p : Byte)

theorem memRead_setP (addr : Word) (s : State) :
    memRead addr (s.setP p) = (memRead addr s).mapState (·.setP p) := by
  simp only [memRead, State.setP_map]
  split
  · rfl
  · rfl
  · rfl
  · rw [apply_ite (Run.mapState (·.setP p))]
    rfl

theorem memReadWord_setP (lo hi : Word) (s : State) :
    memReadWord lo hi (s.setP p) = (memReadWord lo hi s).mapState (·.setP p) := by
  simp only [memReadWord, memRead_setP]
  exact Run.mapState_bind fun l t => by
    rw [memRead_setP]
    exact Run.mapState_bind fun _ _ => rfl

theorem resolve_setP (m : MemForm) (sens : Bool) (s : State) :
    resolve m sens (s.setP p) = (resolve m sens s).mapState (·.setP p) := by
  cases m with
  | zp | zpx | zpy | abs | abx | aby => rfl
  | ind | izx | izy =>
    simp only [resolve, memReadWord_setP]
    exact Run.mapState_bind fun _ _ => rfl

theorem operandValue_setP (src : ReadForm) (sens : Bool) (s : State) :
    operandValue src sens (s.setP p) = (operandValue src sens s).mapState (·.setP p) := by
  cases src with
  | imm => rfl
  | mem m =>
    simp only [operandValue, resolve_setP]
    exact Run.mapState_bind fun r t => by
      rw [memRead_setP]
      exact Run.mapState_bind fun _ _ => rfl

end SetP

/-- Two values of P that agree but for D go through an addition with the same carry and to the same flags. -/
theorem addToA_setP {p : Byte} {s : State} (h : KeepsOther [.d] s.p p) (m : Byte) :
    ∃ q, addToA m (s.setP p) = (addToA m s).setP q ∧ getFlag .d q = getFlag .d p ∧
      KeepsOther [.d] (addToA m s).p q := by
  have hc : (s.setP p).flag .c = s.flag .c := h .c (by decide)
  refine ⟨addFlags s.a m (add9 s.a m (s.flag .c)) p, ?_, by simp, fun f hf => ?_⟩
  · rw [addToA, hc]
    rfl
  · simp only [addToA, State.setP_p, getFlag_addFlags, h f hf]

/-- An instruction that adds what `g` makes of its operand does the same under a P that differs in D only. -/
theorem addInstr_setP {i : Instr} {src : ReadForm} {g : Byte → Byte} {s t : State} {p : Byte}
    (hp : KeepsOther [.d] s.p p) (h : runInstr i (readBody src fun m u => addToA (g m) u) s = .next t) :
    ∃ q, runInstr i (readBody src fun m u => addToA (g m) u) (s.setP p) = .next (t.setP q) ∧
      getFlag .d q = getFlag .d p ∧ KeepsOther [.d] t.p q := by
  obtain ⟨b, hb, -⟩ := runInstr_next h
  rw [runInstr_eq _ b _ _ hb, readBody] at h ⊢
  rw [operandValue_setP]
  have hread := operandValue_post src (sensitive b) s
  cases hr : operandValue src (sensitive b) s with
  | raised f u =>
    rw [hr] at h hread
    obtain rfl := Host.Outcome.next.inj h
    exact ⟨p, rfl, rfl, hread.1.p ▸ hp⟩
  | done r u =>
    rw [hr] at h hread
    obtain rfl := Host.Outcome.next.inj h
    obtain ⟨q, hq, hd, hk⟩ := addToA_setP (s := u) ((BusOnly.p hread).symm ▸ hp) (g r.1)
    refine ⟨q, ?_, hd, hk⟩
    simp only [Run.mapState, Run.bind_done, hq]
    rfl

/-- Settles O36: both instructions add. -/
theorem decimalFlagDoesNotAffectArithmetic : Obligations.DecimalFlagDoesNotAffectArithmetic := by
  intro src s t p hp i hi h
  obtain rfl | rfl := hi
  · exact addInstr_setP (g := id) hp h
  · exact addInstr_setP hp h

/-! ## Refusals, the reset state, and the debug port -/

/-- Settles O7: where every register is specified, the step is answered. -/
theorem stepRefusedWhileARegisterIsUnspecified : Obligations.StepRefusedWhileARegisterIsUnspecified := by
  intro s
  cases hs : s.specified.all with
  | false => simp [step, hs]
  | true =>
    obtain ⟨t, ht, -⟩ := everyStepIsAnswered s hs
    simp [ht]

/-- Settles O12: the flat map has the smallest RAM and no I/O window, and nothing is listed. -/
theorem invariantHoldsAtReset : Obligations.InvariantHoldsAtReset := by
  unfold Obligations.InvariantHoldsAtReset
  decide

/-- Settles O14: both bytes of the vector read as the unlisted byte. -/
theorem resetStateIsResetOfPowerOn : Obligations.ResetStateIsResetOfPowerOn := by
  unfold Obligations.ResetStateIsResetOfPowerOn
  decide

theorem debugRead_of_specified {reg : DebugReg} {s : State} (h : s.specified.has reg = true) :
    debugRead reg s = s.register reg :=
  if_pos h

theorem debugRead_debugWrite_same (reg : DebugReg) (v : Word) (s : State) :
    debugRead reg (debugWrite reg v s) = (debugWrite reg v s).register reg :=
  debugRead_of_specified (by cases reg <;> rfl)

theorem debugRead_debugWrite_other {reg other : DebugReg} (h : other ≠ reg) (v : Word) (s : State) :
    debugRead other (debugWrite reg v s) = debugRead other s := by
  cases reg with
  | a => cases other with
    | a => exact absurd rfl h
    | x | y | s | p | pc => rfl
  | x => cases other with
    | x => exact absurd rfl h
    | a | y | s | p | pc => rfl
  | y => cases other with
    | y => exact absurd rfl h
    | a | x | s | p | pc => rfl
  | s => cases other with
    | s => exact absurd rfl h
    | a | x | y | p | pc => rfl
  | p => cases other with
    | p => exact absurd rfl h
    | a | x | y | s | pc => rfl
  | pc => cases other with
    | pc => exact absurd rfl h
    | a | x | y | s | p => rfl

/-- Settles O56: each debug write is the record update of its register. -/
theorem debugPortReadsAndWritesRegisters : Obligations.DebugPortReadsAndWritesRegisters := by
  intro reg other v s
  have byteRead (r : DebugReg) {b : Byte} (hb : s.register r = zeroExtend16 b) (h : s.specified.has r = true) :
      (debugRead r s).toNat = b.toNat := by
    rw [debugRead_of_specified h, hb, toNat_zeroExtend16]
  refine ⟨byteRead .a rfl, byteRead .x rfl, byteRead .y rfl, byteRead .s rfl, byteRead .p rfl,
    debugRead_of_specified (reg := .pc), ⟨lowByte v, toNat_lowByte v, rfl, rfl, rfl, rfl, rfl, rfl⟩, ?_,
    fun hne _ => debugRead_debugWrite_other hne v s, ?_⟩
  · rw [debugRead_debugWrite_same]
    cases reg with
    | pc => rfl
    | a | x | y | s | p => simp [debugWrite, State.register]
  · cases reg <;> exact ⟨rfl, rfl, rfl, rfl, rfl⟩

end Sys2Proof.Machine

/-!
Settles the statements of spec/20_memory.md. O20 reads the storage column of `Frame`: an address that stores nothing
shares its cell with none that does. O22 is the memory primitives law by law; O23 to O25 are what storage and the stack
make of `State.putByte`, whose two cases are said for `SameByte`.
-/

namespace Sys2Proof.Machine
open Claims

/-! ## An address that stores nothing keeps its byte -/

theorem PcAndBusOnly.byteAt {s t : State} (h : PcAndBusOnly s t) (addr : Word) : t.byteAt addr = s.byteAt addr := by
  rw [h]
  rfl

theorem Frame.byteAt_of_not_store {w : Footprint} {s t : State} {addr : Word} (h : Frame w s t)
    (haddr : (lawAt s.map addr).onWrite ≠ .store) : t.byteAt addr = s.byteAt addr := by
  rw [State.byteAt, State.byteAt, h.map]
  exact h.mem.2 _ fun a _ ha => cellOf_ne_of_not_store s.map a addr ha haddr

/-- Settles O20: neither the fetch nor the instruction writes the cell. -/
theorem readOnlyStorageNeverChanges : Obligations.ReadOnlyStorageNeverChanges := by
  intro s t addr h haddr
  obtain ⟨-, u, hu, ⟨f, rfl⟩ | ⟨i, hi⟩⟩ := step_next h
  · exact hu.byteAt addr
  · rw [← hu.kept.map] at haddr
    exact ((exec_frame hi).byteAt_of_not_store haddr).trans (hu.byteAt addr)

/-! ## Plain storage -/

theorem State.putByte_byteAt_same {s : State} {b addr : Word} (h : SameByte s.map b addr) (v : Byte) :
    (s.putByte addr v).byteAt b = v := by
  rw [State.putByte_byteAt, if_pos ((cellOf_eq_iff s.map b addr).2 h)]

theorem State.putByte_byteAt_other {s : State} {b addr : Word} (h : ¬ SameByte s.map b addr) (v : Byte) :
    (s.putByte addr v).byteAt b = s.byteAt b := by
  rw [State.putByte_byteAt, if_neg (mt (cellOf_eq_iff s.map b addr).1 h)]

theorem State.Plain.onRead {s : State} {addr : Word} (h : s.Plain addr) : (lawAt s.map addr).onRead = .stored :=
  congrArg Config.Law.onRead h

theorem State.Plain.onWrite {s : State} {addr : Word} (h : s.Plain addr) : (lawAt s.map addr).onWrite = .store :=
  congrArg Config.Law.onWrite h

theorem memRead_of_byteAt {addr : Word} {v : Byte} {s : State} (h : (lawAt s.map addr).onRead = .stored)
    (hv : s.byteAt addr = v) : memRead addr s = .done v (s.note (.read addr v)) := by
  rw [memRead_stored addr s h, hv]

/-- Settles O23: the write is `putByte`, which keeps the law of the address. -/
theorem readAfterWriteInPlainStorage : Obligations.ReadAfterWriteInPlainStorage := by
  intro addr v s t hplain hwrite
  rw [memWrite_store addr v s hplain.onWrite] at hwrite
  obtain rfl := (Run.done.inj hwrite).2
  have hbyte : ((s.putByte addr v).note (.write addr v)).byteAt addr = v := State.putByte_byteAt_same (.inl rfl) v
  refine ⟨fun b => ⟨fun h => State.putByte_byteAt_same h v, fun h => State.putByte_byteAt_other h v⟩, ?_⟩
  exact memRead_of_byteAt hplain.onRead hbyte

/-! ## The stack -/

/-- Settles O24: a push to plain storage is `putByte` at the slot, then the new S. -/
theorem pushWritesThenDecrements : Obligations.PushWritesThenDecrements := by
  intro v s
  refine ⟨s.stackAddr, toNat_joinBytes _ _, fun hplain => ?_, push_error v s⟩
  have hsp : (s.sp - 1).toNat = (s.sp.toNat + 255) % 256 := by bv_omega
  exact ⟨(s.putByte s.stackAddr v).mem, s.sp - 1, hsp, push_store v s hplain.onWrite,
    fun b => ⟨fun h => State.putByte_byteAt_same h v, fun h => State.putByte_byteAt_other h v⟩⟩

theorem pull_error (s : State) (h : (lawAt s.map (joinBytes s.cfg.stackPage (s.sp + 1))).onRead = .error) :
    pull s = .raised (.unbackedMemoryAccess (joinBytes s.cfg.stackPage (s.sp + 1)) .read)
      ((s.setSp (s.sp + 1)).note (.readError (joinBytes s.cfg.stackPage (s.sp + 1)))) :=
  memRead_error _ _ h

theorem stackSlot_zero (s : State) : stackSlot s 0 = s.stackAddr := by
  simp [stackSlot, State.stackAddr]

/-- The stack gives back the byte last pushed to plain storage, and the S of before (R46). -/
theorem pull_of_push {v : Byte} {s t : State} (hplain : s.Plain s.stackAddr) (h : push v s = .done () t) :
    ∃ u, pull t = .done v u ∧ u.sp = s.sp := by
  rw [push_store v s hplain.onWrite] at h
  have ht := (Run.done.inj h).2.symm
  have hread : (lawAt t.map s.stackAddr).onRead = .stored := by rw [ht]; exact hplain.onRead
  have hbyte : t.byteAt s.stackAddr = v := by rw [ht]; exact State.putByte_byteAt_same (.inl rfl) v
  have hsp : t.sp + 1 = s.sp := by rw [ht]; exact BitVec.sub_add_cancel s.sp 1
  have hslot : (t.setSp (t.sp + 1)).stackAddr = s.stackAddr := by rw [hsp, ht]; rfl
  rw [pull, hslot]
  exact ⟨_, memRead_of_byteAt hread hbyte, hsp⟩

/-- Settles O25: a pull is a read at the slot of the new S, and undoes a push. -/
theorem pullIncrementsThenReads : Obligations.PullIncrementsThenReads := by
  refine ⟨fun s => ?_, fun v s t hplain h => pull_of_push (stackSlot_zero s ▸ hplain) h⟩
  exact ⟨joinBytes s.cfg.stackPage (s.sp + 1), s.sp + 1, BitVec.toNat_add s.sp 1, toNat_joinBytes _ _,
    pull_stored s, pull_error s⟩

/-! ## The memory primitives, law by law -/

theorem memRead_anyValue (addr : Word) (s : State) (h : (lawAt s.map addr).onRead = .anyValue) :
    memRead addr s = .done (Config.anyByte s.oracleCount addr)
      (s.drawn.note (.read addr (Config.anyByte s.oracleCount addr))) := by
  simp only [memRead, h]

theorem memRead_anyAnswer (addr : Word) (s : State) (h : (lawAt s.map addr).onRead = .anyAnswer) :
    (∃ v, memRead addr s = .done v (s.drawn.note (.read addr v))) ∨
      memRead addr s = .raised (.unbackedMemoryAccess addr .read) (s.drawn.note (.readError addr)) := by
  simp only [memRead, h]
  split
  · exact .inl ⟨_, rfl⟩
  · exact .inr rfl

theorem memWrite_discard (addr : Word) (v : Byte) (s : State) (h : (lawAt s.map addr).onWrite = .discard) :
    memWrite addr v s = .done () (s.note (.write addr v)) := by
  simp only [memWrite, h]

theorem memWrite_anyAnswer (addr : Word) (v : Byte) (s : State) (h : (lawAt s.map addr).onWrite = .anyAnswer) :
    memWrite addr v s = .done () (s.drawn.note (.write addr v)) ∨
      memWrite addr v s = .raised (.unbackedMemoryAccess addr .write) (s.drawn.note (.writeError addr v)) := by
  simp only [memWrite, h]
  split
  · exact .inl rfl
  · exact .inr rfl

/-- Settles O22: the primitives' lemma for each law of the address. -/
theorem memoryPrimitivesAnswerOrRaise : Obligations.MemoryPrimitivesAnswerOrRaise := fun addr s =>
  ⟨memRead_stored addr s, fun h => ⟨_, memRead_anyValue addr s h⟩, memRead_error addr s, memRead_anyAnswer addr s,
    fun v => ⟨fun h => ⟨_, memWrite_store addr v s h⟩, memWrite_discard addr v s, memWrite_error addr v s,
      memWrite_anyAnswer addr v s⟩⟩

end Sys2Proof.Machine

/-!
Settles the statements of spec/30_encoding.md. Decoding is said once as a relation, `decode_eq_ok_iff`: the bytes are
an opcode byte, as many operand bytes as its mode has, and the rest. O2 and O3 are its two directions: an instruction
is assembled from its own operand bytes (`instrOf_operandBytes`), and what was assembled has the operand bytes it was
assembled from (`operandBytes_instrOf`). O6 joins decoder and fetch, and gives the step of O11; O8 follows a fetch whose
opcode byte lies in storage (`fetch_afterOpcode`) to each failing operand read; O17 reads the flags off `exec_frame`.
-/

/-! ## Assembling from operand bytes (spec/30_encoding.md R57, R58) -/

namespace Sys2Proof

/-- The instruction of an opcode byte and a list of operand bytes, low byte first; a missing byte counts as 0. -/
def instrOf (opcode : Byte) (ops : List Byte) : Instr := assemble opcode (ops.getD 0 0) (ops.getD 1 0)

theorem operation_assemble (opcode aa bb : Byte) : (assemble opcode aa bb).operation = operationOf opcode :=
  Operation.operation_build _ _ _ _ _

theorem mode_assemble (opcode aa bb : Byte) : (assemble opcode aa bb).mode = modeOf opcode :=
  Operation.mode_build (modeOf_mem_modes opcode) _ _ _

theorem Mode.operandBytes_cases (mode : Mode) :
    mode.operandBytes = 0 ∨ mode.operandBytes = 1 ∨ mode.operandBytes = 2 := by
  cases mode <;> decide

open Laws.Encodable in
/-- The statement made per constructor, of every instruction. -/
theorem encodable : ∀ i : Instr, Statement i
  | .tax => tax | .tay => tay | .txa => txa | .tya => tya | .tsx => tsx | .txs => txs
  | .lda src => lda src | .ldx src => ldx src | .ldy src => ldy src
  | .sta dst => sta dst | .stx dst => stx dst | .sty dst => sty dst
  | .pha => pha | .php => php | .pla => pla | .plp => plp
  | .adc src => adc src | .sbc src => sbc src
  | .inc dst => inc dst | .inx => inx | .iny => iny | .dec dst => dec dst | .dex => dex | .dey => dey
  | .and src => and src | .ora src => ora src | .eor src => eor src | .bit src => bit src
  | .asl dst => asl dst | .lsr dst => lsr dst | .rol dst => rol dst | .ror dst => ror dst
  | .cmp src => cmp src | .cpx src => cpx src | .cpy src => cpy src
  | .bcc off => bcc off | .bcs off => bcs off | .beq off => beq off | .bmi off => bmi off
  | .bne off => bne off | .bpl off => bpl off | .bvc off => bvc off | .bvs off => bvs off
  | .jmp dst => jmp dst | .jsr dst => jsr dst | .rts => rts
  | .clc => clc | .sec => sec | .cli => cli | .sei => sei | .clv => clv | .cld => cld | .sed => sed
  | .nop => nop | .brk => brk | .rti => rti
  | .unsupported opcode => unsupported opcode

/-! ### A form is made of its bytes, and has the bytes it was made of -/

theorem memForm_bytes (m : MemForm) : memForm m.mode (m.bytes.getD 0 0) (m.bytes.getD 1 0) = m := by
  cases m with
  | zp | zpx | zpy | izx | izy => rfl
  | abs w | abx w | aby w | ind w => simp [memForm, MemForm.mode, MemForm.bytes]

theorem readForm_bytes (r : ReadForm) : readForm r.mode (r.bytes.getD 0 0) (r.bytes.getD 1 0) = r := by
  cases r with
  | imm => rfl
  | mem m =>
    have himm : m.mode ≠ .imm := by cases m <;> nofun
    exact (if_neg himm).trans (congrArg ReadForm.mem (memForm_bytes m))

theorem shiftForm_bytes (r : ShiftForm) : shiftForm r.mode (r.bytes.getD 0 0) (r.bytes.getD 1 0) = r := by
  cases r with
  | acc => rfl
  | mem m =>
    have hacc : m.mode ≠ .acc := by cases m <;> nofun
    exact (if_neg hacc).trans (congrArg ShiftForm.mem (memForm_bytes m))

section Bytes
variable {mode : Mode} {ops : List Byte}

theorem bytes_memForm (h : mode ∈ memoryModes) (hops : ops.length = mode.operandBytes) :
    (memForm mode (ops.getD 0 0) (ops.getD 1 0)).bytes = ops := by
  cases mode with
  | imp | acc | imm | rel | noMode => simp [memoryModes] at h
  | zp | zpx | zpy | izx | izy =>
    obtain ⟨aa, rfl⟩ := List.length_eq_one_iff.1 hops
    rfl
  | abs | abx | aby | ind =>
    obtain ⟨aa, bb, rfl⟩ := List.length_eq_two.1 hops
    simp [memForm, MemForm.bytes]

theorem bytes_readForm (h : mode ∈ .imm :: memoryModes) (hops : ops.length = mode.operandBytes) :
    (readForm mode (ops.getD 0 0) (ops.getD 1 0)).bytes = ops := by
  unfold readForm
  split
  · next hi =>
    subst hi
    obtain ⟨aa, rfl⟩ := List.length_eq_one_iff.1 hops
    rfl
  · next hi => exact bytes_memForm ((List.mem_cons.1 h).resolve_left hi) hops

theorem bytes_shiftForm (h : mode ∈ .acc :: memoryModes) (hops : ops.length = mode.operandBytes) :
    (shiftForm mode (ops.getD 0 0) (ops.getD 1 0)).bytes = ops := by
  unfold shiftForm
  split
  · next ha =>
    subst ha
    exact (List.length_eq_zero_iff.1 hops).symm
  · next ha => exact bytes_memForm ((List.mem_cons.1 h).resolve_left ha) hops

/-- An operation built at one of its modes has the operand bytes it was built from. -/
theorem Operation.operandBytes_build {op : Operation} (h : mode ∈ op.modes)
    (hops : ops.length = mode.operandBytes) (opcode : Byte) :
    (op.build opcode mode (ops.getD 0 0) (ops.getD 1 0)).operandBytes = ops := by
  have inclusion {l l' : List Mode} (hl : l ⊆ l') (hm : mode ∈ l) : mode ∈ l' := hl hm
  cases op with
  | lda | ldx | ldy | adc | sbc | and | ora | eor | cmp | cpx | cpy =>
    exact bytes_readForm (inclusion (by decide) h) hops
  | asl | lsr | rol | ror => exact bytes_shiftForm (inclusion (by decide) h) hops
  | sta | stx | sty | inc | dec | bit | jmp => exact bytes_memForm (inclusion (by decide) h) hops
  | bcc | bcs | beq | bmi | bne | bpl | bvc | bvs =>
    obtain rfl := List.mem_singleton.1 h
    obtain ⟨aa, rfl⟩ := List.length_eq_one_iff.1 hops
    rfl
  | jsr =>
    obtain rfl := List.mem_singleton.1 h
    obtain ⟨aa, bb, rfl⟩ := List.length_eq_two.1 hops
    simp [Operation.build, Instr.operandBytes]
  | _ =>
    obtain rfl := List.mem_singleton.1 h
    exact (List.length_eq_zero_iff.1 hops).symm

end Bytes

/-- What is assembled has the operand bytes it was assembled from. -/
theorem operandBytes_instrOf {opcode : Byte} {ops : List Byte} (hops : ops.length = (modeOf opcode).operandBytes) :
    (instrOf opcode ops).operandBytes = ops :=
  Operation.operandBytes_build (modeOf_mem_modes opcode) hops opcode

/-- An instruction is what its operation builds, in its mode, from its operand bytes. -/
theorem Instr.build_operandBytes {i : Instr} {b : Byte} (hb : i.opcode = some b) :
    i.operation.build b i.mode (i.operandBytes.getD 0 0) (i.operandBytes.getD 1 0) = i := by
  cases i with
  | lda src | ldx src | ldy src | adc src | sbc src | and src | ora src | eor src | cmp src | cpx src | cpy src =>
    simp only [Instr.operation, Operation.build, Instr.mode, Instr.operandBytes, readForm_bytes]
  | asl dst | lsr dst | rol dst | ror dst =>
    simp only [Instr.operation, Operation.build, Instr.mode, Instr.operandBytes, shiftForm_bytes]
  | sta m | stx m | sty m | inc m | dec m | bit m | jmp m =>
    simp only [Instr.operation, Operation.build, Instr.mode, Instr.operandBytes, memForm_bytes]
  | jsr dst => exact congrArg Instr.jsr (joinBytes_high_low dst)
  | unsupported opcode =>
    obtain ⟨-, rfl⟩ : unsupportedOpcodes.contains opcode = true ∧ opcode = b := by
      simpa [Instr.opcode] using hb
    rfl
  | _ => rfl

/-- An instruction with an opcode byte is assembled from that byte and its own operand bytes. -/
theorem instrOf_operandBytes {i : Instr} {b : Byte} (hb : i.opcode = some b) : instrOf b i.operandBytes = i := by
  obtain ⟨hop, hmode, -⟩ := (encodable i).2 b hb
  rw [instrOf, assemble, hop, hmode, Instr.build_operandBytes hb]

/-! ## Decoding (R56, R57, R59) -/

/-- An opcode byte and the operand bytes of its mode decode, whatever follows. -/
theorem decode_append {opcode : Byte} {ops : List Byte} (hops : ops.length = (modeOf opcode).operandBytes)
    (rest : List Byte) : decode (opcode :: (ops ++ rest)) = .ok (instrOf opcode ops) rest := by
  obtain h | h | h := (modeOf opcode).operandBytes_cases
  · obtain rfl := List.length_eq_zero_iff.1 (hops.trans h)
    simp [decode, h, instrOf]
  · obtain ⟨aa, rfl⟩ := List.length_eq_one_iff.1 (hops.trans h)
    simp [decode, h, instrOf]
  · obtain ⟨aa, bb, rfl⟩ := List.length_eq_two.1 (hops.trans h)
    simp [decode, h, instrOf]

/-- Bytes decode exactly when they are an opcode byte, the operand bytes of its mode, and the rest. -/
theorem decode_eq_ok_iff (bytes : List Byte) (i : Instr) (rest : List Byte) : decode bytes = .ok i rest ↔
    ∃ opcode ops, bytes = opcode :: (ops ++ rest) ∧ ops.length = (modeOf opcode).operandBytes ∧
      i = instrOf opcode ops := by
  constructor
  · intro h
    unfold decode at h
    split at h
    · cases h
    · next opcode tail =>
      split at h
      · next hn => cases h; exact ⟨opcode, [], rfl, hn.symm, rfl⟩
      · next aa _ hn => cases h; exact ⟨opcode, [aa], rfl, hn.symm, rfl⟩
      · next aa bb _ hn => cases h; exact ⟨opcode, [aa, bb], rfl, hn.symm, rfl⟩
      · cases h
  · rintro ⟨opcode, ops, rfl, hops, rfl⟩
    exact decode_append hops rest

theorem encode_eq {i : Instr} {b : Byte} (hb : i.opcode = some b) : encode i = b :: i.operandBytes := by
  simp only [encode, hb]

/-- Settles O2: an instruction is assembled from its own bytes. -/
theorem decodeOfEncodeIsTheInstruction : Obligations.DecodeOfEncodeIsTheInstruction := by
  intro i rest hi
  obtain ⟨b, hb⟩ := Option.isSome_iff_exists.1 ((encodable i).1.1 hi)
  obtain ⟨-, hmode, hlen⟩ := (encodable i).2 b hb
  rw [encode_eq hb, List.cons_append, decode_append (hmode ▸ hlen), instrOf_operandBytes hb]

/-- Settles O3: the bytes of what was assembled are those it was assembled from. -/
theorem encodeOfDecodeIsTheBytes : Obligations.EncodeOfDecodeIsTheBytes := by
  intro bytes i rest h
  obtain ⟨opcode, ops, rfl, hops, rfl⟩ := (decode_eq_ok_iff bytes i rest).1 h
  have hb : (instrOf opcode ops).opcode = some opcode := opcode_assemble opcode _ _
  refine ⟨(encodable _).1.2 (Option.isSome_of_mem hb), ?_⟩
  rw [encode_eq hb, operandBytes_instrOf hops, List.cons_append]

/-- Three bytes and what follows decode by the opcode map's entry of the first. -/
theorem decode_three (opcode aa bb : Byte) (rest : List Byte) : decode (opcode :: aa :: bb :: rest) =
    .ok (instrOf opcode ([aa, bb].take (modeOf opcode).operandBytes))
      ((aa :: bb :: rest).drop (modeOf opcode).operandBytes) := by
  obtain h | h | h := (modeOf opcode).operandBytes_cases <;> simp [decode, h, instrOf]

/-- The operand bytes of a mode, out of two, as the fetch picks them (log entry 8). -/
theorem instrOf_take (opcode aa bb : Byte) (mode : Mode) : instrOf opcode ([aa, bb].take mode.operandBytes) =
    assemble opcode (if mode.operandBytes = 0 then 0 else aa) (if mode.operandBytes = 2 then bb else 0) := by
  obtain h | h | h := mode.operandBytes_cases <;> simp [instrOf, h]

/-- Settles O4: an operation built in its mode has that operation and that mode. -/
theorem everyOpcodeByteDecodes : Obligations.EveryOpcodeByteDecodes := fun opcode aa bb rest =>
  ⟨_, _, decode_three opcode aa bb rest, operation_assemble _ _ _, mode_assemble _ _ _, rfl⟩

/-- Settles O1: each of the sixteen words, looked up in the opcode map. -/
theorem sampleWordsDecode : Obligations.SampleWordsDecode := by
  unfold Obligations.SampleWordsDecode
  decide

/-- Settles O5: the list R63 marks against the opcode map, cell by cell; then its length and its entries. -/
theorem sensitiveOpcodesAreTheIndexedReads : Obligations.SensitiveOpcodesAreTheIndexedReads :=
  ⟨by decide +kernel, rfl, by decide⟩

end Sys2Proof

/-! ## Fetching (R55) and the unsupported opcodes (R65) -/

namespace Sys2Proof.Machine
open Claims

/-- Settles O17: the mask's column of the frame; the unused bit is set already and no instruction clears it. -/
theorem flagsOutsideTheMaskStay : Obligations.FlagsOutsideTheMaskStay := by
  intro i s t f hu h hf
  have hp := (exec_frame h).p
  by_cases hfu : f = .u
  · subst hfu
    exact (hp.sticky .u (by decide) hu).trans hu.symm
  · exact hp.other f hf hfu

/-- A new request's fetch of `n` bytes from storage. -/
theorem beginRequest_advanced (s : State) (n : Nat) : s.beginRequest.advanced n = fetched s n := rfl

/-- Settles O6: the fetch reads the bytes that decode, and assembles them as the decoder does. -/
theorem stepRunsTheDecodedInstruction : Obligations.StepRunsTheDecodedInstruction := by
  intro s i rest hs hdecode hstored
  obtain ⟨rfl, rfl⟩ := Decoded.ok.inj ((decode_three _ _ _ []).symm.trans hdecode)
  have hlen : 3 - ([s.byteAt (s.pc + 1), s.byteAt (s.pc + 2)].drop (modeOf (s.byteAt s.pc)).operandBytes).length =
      1 + (modeOf (s.byteAt s.pc)).operandBytes := by
    have hmode := (modeOf (s.byteAt s.pc)).operandBytes_cases
    simp only [List.length_drop, List.length_cons, List.length_nil]
    omega
  rw [hlen] at hstored ⊢
  rw [step_eq s hs, fetch_stored s.beginRequest hstored, beginRequest_advanced, instrOf_take]
  rfl

theorem opcode_unsupported {b : Byte} (hb : b ∈ unsupportedOpcodes) : (Instr.unsupported b).opcode = some b :=
  if_pos (List.contains_iff_mem.2 hb)

/-- An unsupported opcode answers its fault record and changes nothing else (R215). -/
theorem exec_unsupported {b : Byte} (hb : b ∈ unsupportedOpcodes) (s : State) :
    exec (.unsupported b) s = .next { s with answer := .fault (.unsupportedOpcode b) } := by
  simp only [exec, execUnsupported, opcode_unsupported hb]
  rfl

/-- The bytes at an unsupported opcode decode to it. -/
theorem decode_unsupported {b : Byte} (hb : b ∈ unsupportedOpcodes) (rest : List Byte) :
    decode (b :: rest) = .ok (.unsupported b) rest := by
  have hencode : encode (.unsupported b) = [b] := encode_eq (opcode_unsupported hb)
  have hdecode := decodeOfEncodeIsTheInstruction (.unsupported b) rest (List.contains_iff_mem.2 hb)
  rwa [hencode] at hdecode

/-- Settles O11: the step is that of the decoded instruction (O6), of one byte. -/
theorem unsupportedOpcodeFaults : Obligations.UnsupportedOpcodeFaults := by
  refine ⟨by decide, by decide, fun b => ⟨fun h => ?_, fun h => ?_⟩, fun b s hb => ⟨exec_unsupported hb s, ?_⟩⟩
  · exact List.contains_iff_mem.1 (unsupported_of_operationOf b h)
  · exact (Laws.Encodable.unsupported_entry b (List.contains_iff_mem.2 h)).1
  · rintro hs hstored rfl
    have hstep := stepRunsTheDecodedInstruction s _ _ hs (decode_unsupported hb _) fun k hk => by
      obtain rfl : k = 0 := Nat.lt_one_iff.1 hk
      simpa using hstored
    rw [hstep, exec_unsupported hb]
    simp [fetched]

/-! ### A failing read of the instruction's own bytes -/

/-- The state in which a step fetches the operand bytes, its opcode byte having been read from storage. -/
def State.afterOpcode (s : State) : State :=
  (s.beginRequest.note (.read s.pc (s.byteAt s.pc))).setPc (s.pc + 1)

/-- Where the opcode byte lies in storage, the fetch goes on with the operand bytes of its mode. -/
theorem fetch_afterOpcode {s : State} (h : (lawAt s.map s.pc).onRead = .stored) :
    fetch s.beginRequest = (fetchOperands (modeOf (s.byteAt s.pc)) s.afterOpcode).bind fun ops t =>
      .done (assemble (s.byteAt s.pc) ops.1 ops.2) t := by
  rw [fetch, memRead_stored s.beginRequest.pc s.beginRequest h]
  rfl

/-- An operand byte that fails ends the step with its fault. -/
theorem step_of_operands_raised {s t : State} {f : Fault} (hs : s.specified.all = true)
    (h : (lawAt s.map s.pc).onRead = .stored)
    (hops : fetchOperands (modeOf (s.byteAt s.pc)) s.afterOpcode = .raised f t) :
    step s = .next (t.answered (.fault f)) := by
  rw [step_eq s hs, fetch_afterOpcode h, hops]
  rfl

/-- The first operand byte fails: Immediate has moved PC past it (R73), the other modes have not. -/
theorem fetchOperands_first_error {mode : Mode} {s : State} (hmode : mode.operandBytes ≠ 0)
    (h : (lawAt s.map s.pc).onRead = .error) :
    fetchOperands mode s = .raised (.unbackedMemoryAccess s.pc .read)
      ((s.setPc (if mode = .imm then s.pc + 1 else s.pc)).note (.readError s.pc)) := by
  cases mode with
  | imp | acc | noMode => exact absurd rfl hmode
  | imm =>
    rw [fetchOperands, memRead_error _ (s.setPc (s.pc + 1)) h]
    rfl
  | zp | zpx | zpy | izx | izy | rel | abs | abx | aby | ind =>
    rw [fetchOperands, memRead_error _ s h]
    rfl

/-- The second of two operand bytes fails: PC has not moved (R77). -/
theorem fetchOperands_second_error {mode : Mode} {s : State} (hmode : mode.operandBytes = 2)
    (h0 : (lawAt s.map s.pc).onRead = .stored) (h1 : (lawAt s.map (s.pc + 1)).onRead = .error) :
    fetchOperands mode s = .raised (.unbackedMemoryAccess (s.pc + 1) .read)
      ((s.note (.read s.pc (s.byteAt s.pc))).note (.readError (s.pc + 1))) := by
  cases mode with
  | abs | abx | aby | ind =>
    rw [fetchOperands, memRead_stored _ _ h0, Run.bind_done, State.note_pc,
      memRead_error (s.pc + 1) (s.note _) h1]
    rfl
  | _ => cases hmode

/-- Settles O8: the fault of each failing read ends the fetch. -/
theorem failedFetchLeavesPcByMode : Obligations.FailedFetchLeavesPcByMode := by
  intro s hs
  have hnext : s.pc + 1 + 1 = s.pc + 2 := BitVec.add_assoc s.pc 1 1
  refine ⟨fun h => ?_, fun h => ⟨fun hmode h1 => ?_, fun hmode h1 h2 => ?_⟩⟩
  · rw [step_eq s hs, fetch, memRead_error s.beginRequest.pc s.beginRequest h]
    rfl
  · rw [step_of_operands_raised hs h (fetchOperands_first_error hmode h1), ← hnext]
    rfl
  · rw [← hnext] at h2 ⊢
    rw [step_of_operands_raised hs h (fetchOperands_second_error hmode h1 h2)]
    rfl

end Sys2Proof.Machine

/-!
Settles the statements of spec/40_address_resolver.md. O26 and O27 rest on the numbers of the resolver's operations:
indexing in page 0 and in the whole space, the page-crossing condition (`crosses_index`), and where the high byte of a
`JMP (ind)` target lies; each indirect mode is `memReadWord` at two addresses, which are in storage. O28 takes the
frame from `resolve_post` and `operandValue_post`, and the one read of an operand from what a bind can come to.
-/

namespace Sys2Proof.Machine
open Claims

/-! ## Addresses as numbers -/

/-- Adding an index in page 0 wraps within the page (R75, R76). -/
theorem toNat_zeroExtend16_add (aa i : Byte) : (zeroExtend16 (aa + i)).toNat = (aa.toNat + i.toNat) % 256 := by
  rw [toNat_zeroExtend16, BitVec.toNat_add]

/-- Adding an index to a 16-bit base wraps at the end of the space (R78, R79). -/
theorem toNat_add_zeroExtend16 (base : Word) (i : Byte) :
    (base + zeroExtend16 i).toNat = (base.toNat + i.toNat) % 65536 := by
  rw [BitVec.toNat_add, toNat_zeroExtend16]

/-- The high byte changes just where the low byte and the index carry into it, at the end of the space too (R84). -/
theorem crosses_index (base : Word) (i : Byte) :
    crosses base (base + zeroExtend16 i) = decide (255 < base.toNat % 256 + i.toNat) := by
  have hbase := base.isLt
  have hi := i.isLt
  rw [crosses, decide_eq_decide, ne_eq, ← BitVec.toNat_inj, toNat_highByte, toNat_highByte, toNat_add_zeroExtend16]
  omega

theorem toNat_pointerHigh_page (ptr : Word) :
    (pointerHigh .page ptr).toNat = ptr.toNat / 256 * 256 + (ptr.toNat + 1) % 256 := by
  have hlow : (lowByte ptr + 1).toNat = (ptr.toNat + 1) % 256 := by
    rw [BitVec.toNat_add, toNat_lowByte]
    exact Nat.mod_add_mod ptr.toNat 256 1
  rw [pointerHigh, toNat_joinBytes, toNat_highByte, hlow, Nat.mul_comm]

theorem toNat_pointerHigh_linear (ptr : Word) : (pointerHigh .linear ptr).toNat = (ptr.toNat + 1) % 65536 :=
  BitVec.toNat_add ptr 1

/-! ## The direct modes -/

/-- Settles O26: each mode is its sum, and no direct mode reads. -/
theorem directModesResolve : Obligations.DirectModesResolve := by
  intro s sens aa base
  refine ⟨zeroExtend16 aa, zeroExtend16 (aa + s.x), zeroExtend16 (aa + s.y), base + zeroExtend16 s.x,
    base + zeroExtend16 s.y, rfl, toNat_zeroExtend16 aa, rfl, toNat_zeroExtend16_add aa s.x, rfl,
    toNat_zeroExtend16_add aa s.y, rfl, ?_, toNat_add_zeroExtend16 base s.x, ?_, toNat_add_zeroExtend16 base s.y⟩
  · rw [resolve, crosses_index]
  · rw [resolve, crosses_index]

/-! ## The indirect modes, their pointer bytes in storage -/

theorem zeroExtend16_add_eq {w : Word} {aa i : Byte} (h : w.toNat = (aa.toNat + i.toNat) % 256) :
    zeroExtend16 (aa + i) = w :=
  BitVec.eq_of_toNat_eq ((toNat_zeroExtend16_add aa i).trans h.symm)

section Stored
variable {s : State} {lo hi : Word} (sens : Bool) (hlo : (lawAt s.map lo).onRead = .stored)
  (hhi : (lawAt s.map hi).onRead = .stored)
include hlo hhi

/-- The target of `JMP (ind)` is the word that its pointer names (R80). -/
theorem resolve_ind_stored (hptr : pointerHigh s.cfg.jmpIndWrap lo = hi) :
    resolve (.ind lo) sens s = .done (joinBytes (s.byteAt hi) (s.byteAt lo), false)
      ((s.note (.read lo (s.byteAt lo))).note (.read hi (s.byteAt hi))) := by
  rw [resolve, hptr, memReadWord_stored lo hi s hlo hhi, Run.bind_done]

/-- X is added before the pointer is read (R81). -/
theorem resolve_izx_stored {aa : Byte} (hptr : zeroExtend16 (aa + s.x) = lo)
    (hnext : zeroExtend16 (aa + s.x + 1) = hi) :
    resolve (.izx aa) sens s = .done (joinBytes (s.byteAt hi) (s.byteAt lo), false)
      ((s.note (.read lo (s.byteAt lo))).note (.read hi (s.byteAt hi))) := by
  rw [resolve, hptr, hnext, memReadWord_stored lo hi s hlo hhi, Run.bind_done]

/-- Y is added to the word of the pointer, whose low byte decides the page crossing (R82, R84). -/
theorem resolve_izy_stored {aa : Byte} (hptr : zeroExtend16 aa = lo) (hnext : zeroExtend16 (aa + 1) = hi) :
    resolve (.izy aa) sens s = .done (joinBytes (s.byteAt hi) (s.byteAt lo) + zeroExtend16 s.y,
        sens && decide (255 < (s.byteAt lo).toNat + s.y.toNat))
      ((s.note (.read lo (s.byteAt lo))).note (.read hi (s.byteAt hi))) := by
  rw [resolve, hptr, hnext, memReadWord_stored lo hi s hlo hhi, Run.bind_done, crosses_index, ← toNat_lowByte,
    lowByte_joinBytes]
  rfl

end Stored

/-- Settles O27: the addresses with the numbers of the pointer bytes are the ones that the resolver reads. -/
theorem indirectModesResolve : Obligations.IndirectModesResolve := by
  intro s sens
  refine ⟨fun ptr hi hhi h1 h2 => ?_, fun aa lo hi hlo hhi h1 h2 => ?_, fun aa lo hi hlo hhi h1 h2 => ?_⟩
  · have hptr : pointerHigh s.cfg.jmpIndWrap ptr = hi := by
      apply BitVec.eq_of_toNat_eq
      cases hwrap : s.cfg.jmpIndWrap with
      | page => rw [hhi, hwrap, toNat_pointerHigh_page]
      | linear => rw [hhi, hwrap, toNat_pointerHigh_linear]
    exact ⟨_, toNat_joinBytes _ _, resolve_ind_stored sens h1 h2 hptr⟩
  · have hptr : zeroExtend16 (aa + s.x) = lo := zeroExtend16_add_eq hlo
    have hnext : zeroExtend16 (aa + s.x + 1) = hi := zeroExtend16_add_eq <| by
      rwa [← hptr, toNat_zeroExtend16] at hhi
    exact ⟨_, toNat_joinBytes _ _, resolve_izx_stored sens h1 h2 hptr hnext⟩
  · have hptr : zeroExtend16 aa = lo := BitVec.eq_of_toNat_eq ((toNat_zeroExtend16 aa).trans hlo.symm)
    have hnext : zeroExtend16 (aa + 1) = hi := zeroExtend16_add_eq hhi
    exact ⟨_, by rw [toNat_add_zeroExtend16, toNat_joinBytes], resolve_izy_stored sens h1 h2 hptr hnext⟩

/-! ## The frame of the resolver, and the one read of an operand -/

theorem Run.Post.of_done {α : Type} {D : α → State → Prop} {F : Fault → State → Prop} {run : Run α} {v : α}
    {t : State} (h : run.Post D F) (hr : run = .done v t) : D v t := by
  rw [hr] at h
  exact h

theorem Run.Post.of_raised {α : Type} {D : α → State → Prop} {F : Fault → State → Prop} {run : Run α} {f : Fault}
    {t : State} (h : run.Post D F) (hr : run = .raised f t) : F f t := by
  rw [hr] at h
  exact h

/-- Two parts are done when the first is and the second goes on from there. -/
theorem Run.bind_eq_done_iff {α β : Type} {run : Run α} {k : α → State → Run β} {w : β} {t : State} :
    run.bind k = .done w t ↔ ∃ v u, run = .done v u ∧ k v u = .done w t := by
  cases run with
  | done v u => simp
  | raised f u => simp

/-- Two parts raise when the first does, or it is done and the second does (R217). -/
theorem Run.bind_eq_raised_iff {α β : Type} {run : Run α} {k : α → State → Run β} {f : Fault} {t : State} :
    run.bind k = .raised f t ↔ run = .raised f t ∨ ∃ v u, run = .done v u ∧ k v u = .raised f t := by
  cases run with
  | done v u => simp
  | raised g u => simp

theorem operandValue_eq_done_iff (src : ReadForm) (sens : Bool) (s t : State) (r : Byte × Bool) :
    operandValue src sens s = .done r t ↔ OperandRead src sens s r.1 r.2 t := by
  obtain ⟨m, x⟩ := r
  cases src with
  | imm v => simp only [operandValue, OperandRead, Run.done.injEq, Prod.mk.injEq, and_assoc, eq_comm]
  | mem f =>
    simp only [operandValue, OperandRead, Run.bind_eq_done_iff]
    constructor
    · rintro ⟨⟨ea, y⟩, u, hea, v, w, hread, hdone⟩
      obtain ⟨hmx, rfl⟩ := Run.done.inj hdone
      obtain ⟨rfl, rfl⟩ := Prod.mk.inj hmx
      exact ⟨ea, u, hea, hread⟩
    · rintro ⟨ea, u, hea, hread⟩
      exact ⟨(ea, x), u, hea, m, t, hread, rfl⟩

theorem operandValue_eq_raised_iff (src : ReadForm) (sens : Bool) (s t : State) (f : Fault) :
    operandValue src sens s = .raised f t ↔ OperandRaises src sens s f t := by
  cases src with
  | imm v => simp [operandValue, OperandRaises]
  | mem m => simp [operandValue, OperandRaises, Run.bind_eq_raised_iff]

/-- Settles O28: `BusOnly` is the frame, and an operand is the bind of resolving and reading. -/
theorem resolvingTouchesOnlyTheBus : Obligations.ResolvingTouchesOnlyTheBus := fun m src sens s t =>
  ⟨fun _ => (resolve_post m sens s).of_done, fun _ => (resolve_post m sens s).of_raised,
    fun _ => (operandValue_post src sens s).of_done, fun _ => (operandValue_post src sens s).of_raised,
    operandValue_eq_done_iff src sens s t, operandValue_eq_raised_iff src sens s t⟩

end Sys2Proof.Machine

/-!
Settles the statements of spec/42_transfer_load_store.md. An instruction in a row of its Encoding table has the row's
bytes and ends with the row's count (`ListedFor` and what follows from it). On that rests one lemma per shape of
instruction, `registerInstr_of_body`, `readInstr_of_body` and `storeInstr_of_body`: of the instruction they ask which
body it runs, and of its rows that they are listed.
-/

namespace Sys2Proof.Machine
open Claims

/-! ## An instruction in a row of its Encoding table -/

/-- A row says of an operation what R57, R62 and R63 say of the operation in that mode. -/
abbrev ListedFor (op : Operation) (row : Row) : Prop :=
  op.encodings.lookup row.mode = some row.opcode ∧ row.bytes = row.mode.operandBytes + 1 ∧
    baseCycles row.opcode = row.cycles ∧ sensitive row.opcode = row.sensitive

section Listed
variable {i : Instr} {row : Row} (h : ListedFor i.operation row) (hmode : i.mode = row.mode)
include h hmode

theorem opcode_of_listed : i.opcode = some row.opcode := by
  have ⟨hlookup, _⟩ := h
  have hop : i.operation ≠ .unsupported := fun hu => by simp [hu, Operation.encodings] at hlookup
  rw [Instr.opcode_eq_lookup i hop, hmode, hlookup]

theorem encode_of_listed : encode i = row.opcode :: i.operandBytes :=
  encode_eq (opcode_of_listed h hmode)

theorem length_encode_of_listed : (encode i).length = row.bytes := by
  obtain ⟨-, -, hlen⟩ := (encodable i).2 _ (opcode_of_listed h hmode)
  have ⟨_, hbytes, _⟩ := h
  rw [encode_of_listed h hmode, List.length_cons, hlen, hmode, hbytes]

/-- The body is told whether the row carries a `+`, and its extra cycles come on top of the row's count. -/
theorem runInstr_of_listed (body : Bool → State → Run Nat) (s : State) :
    runInstr i body s = conclude row.cycles (body row.sensitive s) := by
  have ⟨_, _, hcycles, hsens⟩ := h
  rw [runInstr_eq i row.opcode body s (opcode_of_listed h hmode), hcycles, hsens]

end Listed

/-! ## Shapes of instruction rules -/

/-- A register-only instruction always completes with its base count. -/
theorem registerInstr_of_body {i : Instr} {opcode : Byte} {eff : State → State} {effect : State → State → Prop}
    (hopcode : i.opcode = some opcode) (hbytes : i.operandBytes = [])
    (hexec : ∀ s, exec i s = runInstr i (registerBody eff) s) (heff : ∀ s r, effect s ((eff s).answered r)) :
    RegisterInstr i opcode (baseCycles opcode) effect := by
  refine ⟨by rw [encode_eq hopcode, hbytes], fun s => ?_⟩
  rw [hexec, runInstr_eq i opcode _ _ hopcode]
  exact ⟨_, rfl, heff s _, rfl⟩

/-- A reading instruction ends as the read of its operand does. -/
theorem readInstr_of_body {mk : ReadForm → Instr} {op : Operation} {rows : List Row} {eff : Byte → State → State}
    {effect : Byte → State → State → Prop}
    (hmk : ∀ src, (mk src).operation = op ∧ (mk src).mode = src.mode ∧ (mk src).operandBytes = src.bytes)
    (hrows : ∀ row ∈ rows, ListedFor op row)
    (hexec : ∀ src s, exec (mk src) s = runInstr (mk src) (readBody src eff) s)
    (heff : ∀ m t r, effect m t ((eff m t).answered r)) : ReadInstr mk rows effect := by
  intro row src s hrow hmode
  obtain ⟨rfl, hm, hbytes⟩ := hmk src
  have hlisted := hrows row hrow
  have hrow' : (mk src).mode = row.mode := hm.trans hmode
  rw [hexec, runInstr_of_listed hlisted hrow', readBody, ← hbytes]
  refine ⟨encode_of_listed hlisted hrow', length_encode_of_listed hlisted hrow', fun m x t hread => ?_,
    fun f t hraises => ?_⟩
  · rw [(operandValue_eq_done_iff src row.sensitive s t (m, x)).2 hread]
    exact ⟨_, rfl, heff m t _, rfl⟩
  · rw [(operandValue_eq_raised_iff src row.sensitive s t f).2 hraises]
    rfl

/-- A storing instruction ends as its write does; no storing row carries a `+`, so no extra cycle is due (R84). -/
theorem storeInstr_of_body {mk : MemForm → Instr} {op : Operation} {rows : List Row} {val : State → Byte}
    (hmk : ∀ dst, (mk dst).operation = op ∧ (mk dst).mode = dst.mode ∧ (mk dst).operandBytes = dst.bytes)
    (hrows : ∀ row ∈ rows, ListedFor op row ∧ row.sensitive = false)
    (hexec : ∀ dst s, exec (mk dst) s = runInstr (mk dst) (storeBody dst (val s)) s) : StoreInstr mk rows val := by
  intro row dst s hrow hmode
  obtain ⟨rfl, hm, hbytes⟩ := hmk dst
  obtain ⟨hlisted, hsens⟩ := hrows row hrow
  have hrow' : (mk dst).mode = row.mode := hm.trans hmode
  rw [hexec, runInstr_of_listed hlisted hrow', storeBody, ← hbytes, hsens]
  refine ⟨encode_of_listed hlisted hrow', length_encode_of_listed hlisted hrow', fun ea x t hresolve => ?_,
    fun f t hresolve => ?_⟩
  · obtain rfl : x = false := (resolve_extra dst s).of_done hresolve
    rw [hresolve, Run.bind_done]
    refine ⟨fun u hwrite => ?_, fun f u hwrite => ?_⟩
    · rw [hwrite]
      rfl
    · rw [hwrite]
      rfl
  · rw [hresolve]
    rfl

/-! ## Loads, stores and transfers -/

theorem writesNZ_setNZ (v p : Byte) : WritesNZ v p (setNZ v p) :=
  ⟨⟨by simp, by simp⟩, keepsOther_setNZ v p⟩

theorem loadsA_answered (v : Byte) (t : State) (r : Answer) :
    LoadsA v t (((t.setA v).setP (setNZ v t.p)).answered r) :=
  ⟨rfl, writesNZ_setNZ v t.p⟩

theorem loadsX_answered (v : Byte) (t : State) (r : Answer) :
    LoadsX v t (((t.setX v).setP (setNZ v t.p)).answered r) :=
  ⟨rfl, writesNZ_setNZ v t.p⟩

theorem loadsY_answered (v : Byte) (t : State) (r : Answer) :
    LoadsY v t (((t.setY v).setP (setNZ v t.p)).answered r) :=
  ⟨rfl, writesNZ_setNZ v t.p⟩

/-- Settles O30: each is a reading instruction whose effect is the load. -/
theorem loadsReadOneByte : Obligations.LoadsReadOneByte :=
  ⟨readInstr_of_body (fun _ => ⟨rfl, rfl, rfl⟩) (by decide) (fun _ _ => rfl) loadsA_answered,
    readInstr_of_body (fun _ => ⟨rfl, rfl, rfl⟩) (by decide) (fun _ _ => rfl) loadsX_answered,
    readInstr_of_body (fun _ => ⟨rfl, rfl, rfl⟩) (by decide) (fun _ _ => rfl) loadsY_answered⟩

/-- Settles O31: each is a storing instruction, and none of their rows carries a `+`. -/
theorem storesWriteOneByte : Obligations.StoresWriteOneByte :=
  ⟨storeInstr_of_body (fun _ => ⟨rfl, rfl, rfl⟩) (by decide) fun _ _ => rfl,
    storeInstr_of_body (fun _ => ⟨rfl, rfl, rfl⟩) (by decide) fun _ _ => rfl,
    storeInstr_of_body (fun _ => ⟨rfl, rfl, rfl⟩) (by decide) fun _ _ => rfl⟩

/-- Settles O29: a transfer is the load of a register, but TXS, which leaves P whole. -/
theorem transfersMoveARegister : Obligations.TransfersMoveARegister :=
  ⟨registerInstr_of_body rfl rfl (fun _ => rfl) fun s => loadsX_answered s.a s,
    registerInstr_of_body rfl rfl (fun _ => rfl) fun s => loadsY_answered s.a s,
    registerInstr_of_body rfl rfl (fun _ => rfl) fun s => loadsA_answered s.x s,
    registerInstr_of_body rfl rfl (fun _ => rfl) fun s => loadsA_answered s.y s,
    registerInstr_of_body rfl rfl (fun _ => rfl) fun s => loadsX_answered s.sp s,
    registerInstr_of_body rfl rfl (fun _ => rfl) fun _ _ => rfl⟩

end Sys2Proof.Machine

/-!
Settles the statements of spec/43_stack.md. An instruction whose body is plain ends as its action does
(`exec_of_plainBody`): of PHA and PHP the action is a push, of PLA and PLP a pull and an effect (`exec_of_pull`). A pull
leaves A and P to the effect.
-/

namespace Sys2Proof.Machine
open Claims

/-- An instruction that works through the stack or jumps ends as its action does, with its base count. -/
theorem exec_of_plainBody {i : Instr} {opcode : Byte} {act : State → Run Unit} {s : State}
    (hopcode : i.opcode = some opcode) (hexec : exec i s = runInstr i (plainBody act) s) :
    (∀ t, act s = .done () t → exec i s = .next (t.answered (.cycles (baseCycles opcode)))) ∧
      ∀ f t, act s = .raised f t → exec i s = .next (t.answered (.fault f)) := by
  rw [hexec, runInstr_eq i opcode _ s hopcode, plainBody]
  refine ⟨fun t hact => ?_, fun f t hact => ?_⟩
  · rw [hact]
    rfl
  · rw [hact]
    rfl

/-- An instruction that pulls a byte for its effect has the effect where the pull is done, and none where it raises. -/
theorem exec_of_pull {i : Instr} {opcode : Byte} {eff : Byte → State → State} {s : State}
    (hopcode : i.opcode = some opcode)
    (hexec : exec i s = runInstr i (plainBody fun s => (pull s).bind fun v t => .done () (eff v t)) s) :
    (∀ v t, pull s = .done v t → exec i s = .next ((eff v t).answered (.cycles (baseCycles opcode)))) ∧
      ∀ f t, pull s = .raised f t → exec i s = .next (t.answered (.fault f)) := by
  obtain ⟨hdone, hraised⟩ := exec_of_plainBody hopcode hexec
  exact ⟨fun v t hpull => hdone _ (by rw [hpull, Run.bind_done]),
    fun f t hpull => hraised f t (by rw [hpull, Run.bind_raised])⟩

/-- A pull that raises leaves A and P as they were. -/
theorem a_p_of_pull_raised {s t : State} {f : Fault} (h : pull s = .raised f t) : t.a = s.a ∧ t.p = s.p := by
  have ⟨hbus, _⟩ : BusOnly (s.setSp (s.sp + 1)) t ∧ _ := (pull_post s).of_raised h
  exact ⟨by rw [hbus]; rfl, hbus.p⟩

/-- A pull that is done leaves P as it was, so that PLP keeps the B of before the pull. -/
theorem p_of_pull_done {s t : State} {v : Byte} (h : pull s = .done v t) : t.p = s.p :=
  have hbus : BusOnly (s.setSp (s.sp + 1)) t := (pull_post s).of_done h
  hbus.p

/-- Settles O33: each is a pull and its effect; of P after PLP, `getFlag_pulledStatus` says every flag. -/
theorem pullInstructions : Obligations.PullInstructions := by
  refine ⟨encode_eq rfl, encode_eq rfl, fun s => ?_⟩
  obtain ⟨hpla, hplaRaised⟩ := exec_of_pull (i := .pla) (s := s) rfl rfl
  obtain ⟨hplp, hplpRaised⟩ := exec_of_pull (i := .plp) (s := s) rfl rfl
  refine ⟨fun v t hpull => ?_, fun f t hpull => ?_⟩
  · have hexec : exec .plp s = .next { t with p := pulledStatus v s.p, answer := .cycles 4 } := by
      rw [hplp v t hpull, p_of_pull_done hpull]
      rfl
    refine ⟨⟨_, hpla v t hpull, loadsA_answered v t _, rfl⟩, hexec, pulledStatus v s.p, hexec, ?_, ?_, ?_⟩
    · simp
    · simp
    · intro f hu hb
      simp [hu, hb]
  · exact ⟨hplaRaised f t hpull, hplpRaised f t hpull, a_p_of_pull_raised hpull⟩

/-- Settles O32: each is a push, of A or of the spec's status byte. -/
theorem pushInstructions : Obligations.PushInstructions := by
  refine ⟨encode_eq rfl, encode_eq rfl, fun s => ?_⟩
  obtain ⟨hpha, hphaRaised⟩ := exec_of_plainBody (i := .pha) (s := s) rfl rfl
  obtain ⟨hphp, hphpRaised⟩ := exec_of_plainBody (i := .php) (s := s) rfl rfl
  exact ⟨hpha, hphaRaised, hphp, hphpRaised⟩

end Sys2Proof.Machine

/-!
Settles the statements of spec/44_arithmetic.md. ADC and SBC share the addition of a byte and the carry to A, which
`adds_addToA` describes in integers; SBC's operand enters as its complement, so its subtraction is an addition
(`subtracts_of_adds_complement`). INC and DEC are read-modify-writes, whose shape `modifyInstr_of_body` proves for
every such instruction.
-/

namespace Sys2Proof.Machine
open Claims

/-! ## The addition of two bytes and a carry -/

/-- Nine bits hold the sum (spec/41_flag_engine_alu.md R98). -/
theorem toNat_add9 (a m : Byte) (cin : Bool) : (add9 a m cin).toNat = a.toNat + m.toNat + cin.toNat := by
  have hcin := Bool.toNat_le cin
  simp only [add9, BitVec.toNat_add, BitVec.toNat_setWidth, BitVec.toNat_ofBool]
  omega

/-- The low eight bits of the sum are the new A. -/
theorem toNat_setWidth_add9 (a m : Byte) (cin : Bool) :
    ((add9 a m cin).setWidth 8).toNat = (a.toNat + m.toNat + cin.toNat) % 256 := by
  rw [BitVec.toNat_setWidth, toNat_add9]

/-- Bit 8 of the sum is the carry out. -/
theorem getElem_add9 (a m : Byte) (cin : Bool) :
    (add9 a m cin)[8] = decide (256 ≤ a.toNat + m.toNat + cin.toNat) := by
  rw [← toNat_add9]
  exact (add9 a m cin).getLsbD_last

/-- The formula of R93 compares signs: the operands agree, and the result differs from them. -/
theorem overflows_eq_msb (first second result : Byte) :
    overflows first second result = (first.msb == second.msb && first.msb != result.msb) := by
  have h80 : (0x80 : Byte) = BitVec.twoPow 8 7 := rfl
  rw [overflows, h80, BitVec.and_twoPow]
  simp only [BitVec.getLsbD_and, BitVec.getLsbD_not, BitVec.getLsbD_xor, BitVec.msb_eq_getLsbD_last]
  generalize first.getLsbD 7 = f, second.getLsbD 7 = g, result.getLsbD 7 = h
  revert f g h
  decide

/-- On a sum, that is the signed overflow. -/
theorem overflows_add9 (a m : Byte) (cin : Bool) : overflows a m ((add9 a m cin).setWidth 8) = true ↔
    a.toInt + m.toInt + cin.toNat < -128 ∨ 127 < a.toInt + m.toInt + cin.toNat := by
  have hcin := Bool.toNat_le cin
  rw [overflows_eq_msb]
  simp only [BitVec.msb_eq_decide, BitVec.toInt_eq_toNat_cond, toNat_setWidth_add9, Bool.and_eq_true, beq_iff_eq,
    bne_iff_ne, ne_eq, decide_eq_decide]
  split <;> split <;> omega

/-! ## ADC and SBC -/

/-- The add path that both instructions share does what R140 says of the byte that enters the adder. -/
theorem adds_addToA (m : Byte) (t : State) (r : Answer) : Adds m t ((addToA m t).answered r) := by
  refine ⟨rfl, toNat_setWidth_add9 t.a m (t.flag .c), ?_, ?_, ⟨?_, ?_⟩, keepsOther_addFlags _ _ _ t.p⟩
  · simp [addToA, getElem_add9, flagNat]
  · simp [addToA, overflows_add9, flagNat]
  · simp [addToA]
  · simp [addToA]

theorem toNat_complement (m : Byte) : (complement m).toNat = 255 - m.toNat := by
  rw [complement, show (0xFF : Byte) = BitVec.allOnes 8 from rfl, BitVec.xor_allOnes, BitVec.toNat_not]

/-- The complement of an operand is its negative less 1, which the carry brings to the negative (R99). -/
theorem toInt_complement (m : Byte) : (complement m).toInt = -m.toInt - 1 := by
  simp only [BitVec.toInt_eq_toNat_cond, toNat_complement]
  have := m.isLt
  split <;> split <;> omega

/-- R141 is R140 of the complemented operand. -/
theorem subtracts_of_adds_complement {m : Byte} {t u : State} (h : Adds (complement m) t u) : Subtracts m t u := by
  obtain ⟨hframe, ha, hc, hv, hnz, hkeeps⟩ := h
  have hm := m.isLt
  rw [toNat_complement] at ha hc
  rw [toInt_complement] at hv
  refine ⟨hframe, by omega, hc.trans ?_, hv.trans ?_, hnz, hkeeps⟩
  · omega
  · omega

/-- Settles O34: ADC is a reading instruction whose effect is the addition. -/
theorem addWithCarry : Obligations.AddWithCarry :=
  readInstr_of_body (fun _ => ⟨rfl, rfl, rfl⟩) (by decide) (fun _ _ => rfl) adds_addToA

/-- Settles O35: SBC is a reading instruction whose effect is the addition of the complement. -/
theorem subtractWithBorrow : Obligations.SubtractWithBorrow :=
  readInstr_of_body (fun _ => ⟨rfl, rfl, rfl⟩) (by decide) (fun _ _ => rfl)
    fun m t r => subtracts_of_adds_complement (adds_addToA (complement m) t r)

/-! ## INC, DEC and their register forms -/

/-- A write leaves P to the flags that follow it. -/
theorem p_of_memWrite_done {addr : Word} {v : Byte} {s t : State} (h : memWrite addr v s = .done () t) : t.p = s.p := by
  obtain ⟨hframe, -⟩ := (memWrite_post addr v s).of_done h
  rw [hframe]

/-- A read-modify-write ends as its write does, with the old P in both of its functions; no such row carries a `+`, so
no extra cycle is due (R84). -/
theorem modifyInstr_of_body {mk : MemForm → Instr} {op : Operation} {rows : List Row} {f g : Byte → Byte → Byte}
    {result : Byte → Byte → Byte → Prop} {flags : Byte → Byte → Byte → Byte → Prop}
    (hmk : ∀ dst, (mk dst).operation = op ∧ (mk dst).mode = dst.mode ∧ (mk dst).operandBytes = dst.bytes)
    (hrows : ∀ row ∈ rows, ListedFor op row ∧ row.sensitive = false)
    (hexec : ∀ dst s, exec (mk dst) s = runInstr (mk dst) (modifyBody dst f g) s)
    (hresult : ∀ m p, result m p (f m p)) (hflags : ∀ m p, flags m p (f m p) (g m p)) :
    ModifyInstr mk rows result flags := by
  intro row dst s hrow hmode
  obtain ⟨rfl, hm, hbytes⟩ := hmk dst
  obtain ⟨hlisted, hsens⟩ := hrows row hrow
  have hrow' : (mk dst).mode = row.mode := hm.trans hmode
  rw [hexec, runInstr_of_listed hlisted hrow', modifyBody, ← hbytes, hsens]
  refine ⟨encode_of_listed hlisted hrow', length_encode_of_listed hlisted hrow', fun ea x t m u hresolve hread => ?_,
    fun ea x t fault u hresolve hread => ?_, fun fault t hresolve => ?_⟩
  · obtain rfl : x = false := (resolve_extra dst s).of_done hresolve
    have hbus : BusOnly s t := (resolve_post dst false s).of_done hresolve
    have hp : u.p = s.p := (hbus.trans ((memRead_post ea t).of_done hread)).p
    rw [hresolve, Run.bind_done, hread, Run.bind_done, hp]
    refine ⟨f m s.p, hresult m s.p, fun w hwrite => ⟨g m s.p, ?_, hflags m s.p⟩, fun fault w hwrite => ?_⟩
    · rw [hwrite, Run.bind_done, p_of_memWrite_done hwrite, hp]
      rfl
    · rw [hwrite]
      rfl
  · rw [hresolve, Run.bind_done, hread]
    rfl
  · rw [hresolve]
    rfl

theorem toNat_increment (v : Byte) : (increment v).toNat = (v.toNat + 1) % 256 :=
  BitVec.toNat_add v 1

theorem toNat_decrement (v : Byte) : (decrement v).toNat = (v.toNat + 255) % 256 :=
  BitVec.toNat_add v 255

/-- Settles O37: both are read-modify-writes, which set N and Z of the new byte. -/
theorem memoryIncrementAndDecrement : Obligations.MemoryIncrementAndDecrement :=
  ⟨modifyInstr_of_body (fun _ => ⟨rfl, rfl, rfl⟩) (by decide) (fun _ _ => rfl) (fun m _ => toNat_increment m)
      fun m p => writesNZ_setNZ (increment m) p,
    modifyInstr_of_body (fun _ => ⟨rfl, rfl, rfl⟩) (by decide) (fun _ _ => rfl) (fun m _ => toNat_decrement m)
      fun m p => writesNZ_setNZ (decrement m) p⟩

/-- Settles O38: each loads its register with the register's own successor or predecessor. -/
theorem registerIncrementAndDecrement : Obligations.RegisterIncrementAndDecrement :=
  ⟨registerInstr_of_body rfl rfl (fun _ => rfl) fun s r => ⟨loadsX_answered (increment s.x) s r, toNat_increment s.x⟩,
    registerInstr_of_body rfl rfl (fun _ => rfl) fun s r => ⟨loadsY_answered (increment s.y) s r, toNat_increment s.y⟩,
    registerInstr_of_body rfl rfl (fun _ => rfl) fun s r => ⟨loadsX_answered (decrement s.x) s r, toNat_decrement s.x⟩,
    registerInstr_of_body rfl rfl (fun _ => rfl) fun s r => ⟨loadsY_answered (decrement s.y) s r, toNat_decrement s.y⟩⟩

end Sys2Proof.Machine

/-!
Settles the statements of spec/45_logic_shift.md. AND, ORA and EOR are reading instructions that load A. BIT reads a
`MemForm`, so it goes through `exec_of_readBody`, the end of a reading instruction in a row of its table. The shifts
and rotates share one shape, `shiftInstr_of_body`, over the two shift functions in integers (`isShiftLeft_shiftLeft`,
`isShiftRight_shiftRight`).
-/

namespace Sys2Proof.Machine
open Claims

/-! ## Logic and the bit test -/

/-- Settles O39: each is a reading instruction that loads A with the combined byte. -/
theorem logicCombinesAWithMemory : Obligations.LogicCombinesAWithMemory :=
  ⟨readInstr_of_body (fun _ => ⟨rfl, rfl, rfl⟩) (by decide) (fun _ _ => rfl)
      fun m t r => ⟨loadsA_answered (t.a &&& m) t r, fun _ => BitVec.getLsbD_and⟩,
    readInstr_of_body (fun _ => ⟨rfl, rfl, rfl⟩) (by decide) (fun _ _ => rfl)
      fun m t r => ⟨loadsA_answered (t.a ||| m) t r, fun _ => BitVec.getLsbD_or⟩,
    readInstr_of_body (fun _ => ⟨rfl, rfl, rfl⟩) (by decide) (fun _ _ => rfl)
      fun m t r => ⟨loadsA_answered (t.a ^^^ m) t r, fun _ => BitVec.getLsbD_xor⟩⟩

/-- A reading instruction in a row of its table has its effect on the state after the read, or raises as the read
does. -/
theorem exec_of_readBody {i : Instr} {row : Row} {src : ReadForm} {eff : Byte → State → State} {s : State}
    (hlisted : ListedFor i.operation row) (hmode : i.mode = row.mode)
    (hexec : exec i s = runInstr i (readBody src eff) s) :
    (∀ m x t, OperandRead src row.sensitive s m x t →
      exec i s = .next ((eff m t).answered (.cycles (row.cycles + x.toNat)))) ∧
      ∀ f t, OperandRaises src row.sensitive s f t → exec i s = .next (t.answered (.fault f)) := by
  rw [hexec, runInstr_of_listed hlisted hmode, readBody]
  refine ⟨fun m x t hread => ?_, fun f t hraises => ?_⟩
  · rw [(operandValue_eq_done_iff src row.sensitive s t (m, x)).2 hread]
    rfl
  · rw [(operandValue_eq_raised_iff src row.sensitive s t f).2 hraises]
    rfl

theorem BusOnly.a {s t : State} (h : BusOnly s t) : t.a = s.a := by
  rw [h]

theorem busOnly_of_operandRead {src : ReadForm} {sens : Bool} {s t : State} {m : Byte} {x : Bool}
    (h : OperandRead src sens s m x t) : BusOnly s t :=
  (operandValue_post src sens s).of_done ((operandValue_eq_done_iff src sens s t (m, x)).2 h)

/-- Only a row with a `+` can add a cycle for the page crossing (R84). -/
theorem extra_of_operandRead {dst : MemForm} {s t : State} {m : Byte} {x : Bool}
    (h : OperandRead (.mem dst) false s m x t) : x = false := by
  obtain ⟨ea, u, hresolve, -⟩ := h
  exact (resolve_extra dst s).of_done hresolve

/-- Z of the bit test: a conjunction is zero when no bit is common. -/
theorem getFlag_z_bitFlags_iff (a m p : Byte) :
    getFlag .z (bitFlags a m p) = true ↔ ∀ k, (a.getLsbD k && m.getLsbD k) = false := by
  have hand : a &&& m = 0 ↔ ∀ k, (a &&& m).getLsbD k = false := BitVec.zero_iff_eq_false
  simpa only [getFlag_bitFlags, reduceCtorEq, if_false, if_true, decide_eq_true_eq, BitVec.getLsbD_and] using hand

/-- Settles O40: the flags are those of the bit test of the A and the P that the read has left. -/
theorem bitTestsMemoryAgainstA : Obligations.BitTestsMemoryAgainstA := by
  intro row src s hrow hmode
  obtain ⟨hlisted, hsens⟩ := (by decide : ∀ row ∈ bitRows, ListedFor .bit row ∧ row.sensitive = false) row hrow
  obtain ⟨hdone, hraised⟩ := exec_of_readBody (i := .bit src) (s := s) hlisted hmode rfl
  refine ⟨encode_of_listed hlisted hmode, length_encode_of_listed hlisted hmode, fun m x t hread => ?_, hraised⟩
  have hbus := busOnly_of_operandRead hread
  obtain rfl : x = false := extra_of_operandRead (hsens ▸ hread)
  rw [← hbus.a, ← hbus.p]
  exact ⟨bitFlags t.a m t.p, hdone m false t hread, getFlag_z_bitFlags_iff t.a m t.p, by simp, by simp,
    keepsOther_bitFlags t.a m t.p⟩

/-! ## The two shifts in integers (R101) -/

/-- The carry in fills the bit 0 that the shift left free. -/
theorem isShiftLeft_shiftLeft (v : Byte) (cin : Bool) :
    IsShiftLeft v cin (shiftLeft v cin).1 (shiftLeft v cin).2 := by
  have hcin := Bool.toNat_lt cin
  constructor
  · have hor := Nat.two_pow_add_eq_or_of_lt (i := 1) hcin (v.toNat % 128)
    have hshift : v.toNat <<< 1 % 256 = 2 ^ 1 * (v.toNat % 128) := by omega
    have hbit : cin.toNat % 256 = cin.toNat := by omega
    simp only [shiftLeft, BitVec.toNat_or, BitVec.toNat_shiftLeft, BitVec.toNat_setWidth, BitVec.toNat_ofBool,
      Nat.reducePow, hshift, hbit] at hor ⊢
    omega
  · have hmsb : v.getLsbD 7 = decide (128 ≤ v.toNat) := BitVec.msb_eq_getLsbD_last v ▸ BitVec.msb_eq_decide v
    simp only [shiftLeft, hmsb, decide_eq_true_eq]

/-- The carry in fills the bit 7 that the shift left free. -/
theorem isShiftRight_shiftRight (v : Byte) (cin : Bool) :
    IsShiftRight v cin (shiftRight v cin).1 (shiftRight v cin).2 := by
  have hcin := Bool.toNat_lt cin
  have hv := v.isLt
  constructor
  · have hor := Nat.two_pow_add_eq_or_of_lt (i := 7) (b := v.toNat / 2) (by omega) cin.toNat
    have hbit : cin.toNat <<< 7 % 256 = 2 ^ 7 * cin.toNat := by omega
    have hhalf : v.toNat >>> 1 = v.toNat / 2 := by omega
    have hbyte : cin.toNat % 256 = cin.toNat := by omega
    simp only [shiftRight, BitVec.toNat_or, BitVec.toNat_shiftLeft, BitVec.toNat_ushiftRight, BitVec.toNat_setWidth,
      BitVec.toNat_ofBool, Nat.reducePow, hbit, hhalf, hbyte, Nat.lor_comm (v.toNat / 2)] at hor ⊢
    omega
  · simp [shiftRight, BitVec.getLsbD, Nat.testBit_zero]

/-! ## Shifts and rotates -/

theorem writesNZC_shiftFlags (v : Byte) (cout : Bool) (p : Byte) :
    WritesNZC v (cout = true) p (shiftFlags v cout p) :=
  ⟨⟨by simp, by simp⟩, by simp, keepsOther_shiftFlags v cout p⟩

/-- On A the shift always completes in 2 cycles; on memory it is a read-modify-write. `f` is the shift, under the
carry in `cin` of the old P. -/
theorem shiftInstr_of_body {mk : ShiftForm → Instr} {op : Operation} {accOpcode : Byte} {rows : List Row}
    {f : Byte → Bool → Byte × Bool} {shift : Byte → Bool → Byte → Bool → Prop} {cin : Byte → Bool}
    (hmk : ∀ dst, (mk dst).operation = op ∧ (mk dst).mode = dst.mode ∧ (mk dst).operandBytes = dst.bytes)
    (hrows : ∀ row ∈ ⟨accOpcode, .acc, 1, 2, false⟩ :: rows, ListedFor op row ∧ row.sensitive = false)
    (hexec : ∀ dst s, exec (mk dst) s = runInstr (mk dst) (shiftBody dst fun v p => f v (cin p)) s)
    (hshift : ∀ v c, shift v c (f v c).1 (f v c).2) : ShiftInstr mk accOpcode rows shift cin := by
  obtain ⟨⟨hacc, -⟩, hmem⟩ := List.forall_mem_cons.1 hrows
  obtain ⟨hop, hmode, hbytes⟩ := hmk .acc
  rw [← hop] at hacc
  refine ⟨?_, fun s => ?_, ?_⟩
  · rw [encode_of_listed hacc hmode, hbytes]
    rfl
  · refine ⟨(f s.a (cin s.p)).1, (f s.a (cin s.p)).2, _, hshift s.a (cin s.p), writesNZC_shiftFlags _ _ s.p, ?_⟩
    rw [hexec, runInstr_of_listed hacc hmode]
    rfl
  · exact modifyInstr_of_body (f := fun v p => (f v (cin p)).1)
      (g := fun v p => shiftFlags (f v (cin p)).1 (f v (cin p)).2 p) (fun dst => hmk (.mem dst)) hmem
      (fun dst => hexec (.mem dst)) (fun m p => ⟨_, hshift m (cin p)⟩)
      fun m p => ⟨_, hshift m (cin p), writesNZC_shiftFlags _ _ p⟩

/-- Settles O41: ASL and LSR take 0 as the carry in, ROL and ROR the old C. -/
theorem shiftsAndRotates : Obligations.ShiftsAndRotates :=
  ⟨shiftInstr_of_body (fun _ => ⟨rfl, rfl, rfl⟩) (by decide) (fun _ _ => rfl) isShiftLeft_shiftLeft,
    shiftInstr_of_body (fun _ => ⟨rfl, rfl, rfl⟩) (by decide) (fun _ _ => rfl) isShiftRight_shiftRight,
    shiftInstr_of_body (fun _ => ⟨rfl, rfl, rfl⟩) (by decide) (fun _ _ => rfl) isShiftLeft_shiftLeft,
    shiftInstr_of_body (fun _ => ⟨rfl, rfl, rfl⟩) (by decide) (fun _ _ => rfl) isShiftRight_shiftRight⟩

end Sys2Proof.Machine

/-!
Settles the statements of spec/46_compare_branch_jump.md. The compares are reading instructions that write flags only,
and the branches share one shape, `branchInstr_of_body`, over the branch target and the page condition as numbers. JSR
and RTS end as the two pushes and the two pulls of a word do; O47 joins them by what a word pushed to plain storage
leaves (`pushWord_plain`) and what a word is pulled from (`pullWord_plain`).
-/

namespace Sys2Proof.Machine
open Claims

/-! ## Compares -/

/-- Bit 7 of the difference modulo 256, as a number. -/
theorem getElem_sub_seven (r m : Byte) : (r - m)[7] = decide (128 ≤ (r.toNat + 256 - m.toNat) % 256) := by
  have hm := m.isLt
  have hmsb : (r - m)[7] = (r - m).msb := (BitVec.msb_eq_getLsbD_last (r - m)).symm
  have hsub : 2 ^ 8 - m.toNat + r.toNat = r.toNat + 256 - m.toNat := by omega
  rw [hmsb, BitVec.msb_eq_decide, BitVec.toNat_sub, hsub]

/-- The compare rule in integers (spec/41_flag_engine_alu.md R103). -/
theorem compares_answered (r m : Byte) (t : State) (ans : Answer) :
    Compares r m t ((t.setP (compareFlags r m t.p)).answered ans) := by
  have hequal : r - m = 0#8 ↔ r = m := sub_eq_zero
  refine ⟨rfl, ?_, ?_, ?_, keepsOther_compareFlags r m t.p⟩
  · simp [BitVec.le_def]
  · simp [hequal]
  · simp [getElem_sub_seven]

/-- Settles O42: each is a reading instruction whose effect is the compare of its register. -/
theorem comparesSetFlagsOnly : Obligations.ComparesSetFlagsOnly :=
  ⟨readInstr_of_body (fun _ => ⟨rfl, rfl, rfl⟩) (by decide) (fun _ _ => rfl)
      fun m t => compares_answered t.a m t,
    readInstr_of_body (fun _ => ⟨rfl, rfl, rfl⟩) (by decide) (fun _ _ => rfl)
      fun m t => compares_answered t.x m t,
    readInstr_of_body (fun _ => ⟨rfl, rfl, rfl⟩) (by decide) (fun _ _ => rfl)
      fun m t => compares_answered t.y m t⟩

/-! ## Branches -/

/-- The offset is signed, and the target wraps at the end of the space (spec/40_address_resolver.md R83). -/
theorem toNat_branchTarget (next : Word) (off : Byte) :
    ((branchTarget next off).toNat : Int) = ((next.toNat : Int) + off.toInt) % 65536 := by
  rw [branchTarget, signExtend16, BitVec.signExtend, BitVec.toNat_add, BitVec.toNat_ofInt]
  omega

/-- Another page is another quotient by 256 (R84, R173). -/
theorem crosses_eq_decide (base ea : Word) : crosses base ea = !decide (ea.toNat / 256 = base.toNat / 256) := by
  rw [crosses, ← decide_not, decide_eq_decide, ne_eq, ← BitVec.toNat_inj, toNat_highByte, toNat_highByte]

/-- A branch taken costs 3 cycles within the page of the next instruction, and 4 to another. -/
theorem branch_cycles (base ea : Word) :
    2 + (1 + (crosses base ea).toNat) = if ea.toNat / 256 = base.toNat / 256 then 3 else 4 := by
  rw [crosses_eq_decide]
  split
  · next h => simp [h]
  · next h => simp [h]

/-- A branch on the condition `cond`, which is that the flag `f` has the value `val`. -/
theorem branchInstr_of_body {mk : Byte → Instr} {opcode : Byte} {f : Flag} {val : Bool} {cond : State → Bool}
    (hcond : ∀ s, cond s = true ↔ s.flag f = val)
    (hmk : ∀ off, (mk off).opcode = some opcode ∧ (mk off).operandBytes = [off])
    (hcycles : baseCycles opcode = 2)
    (hexec : ∀ off s, exec (mk off) s = runInstr (mk off) (branchBody (cond s) off) s) :
    BranchInstr mk opcode f val := by
  intro off s
  obtain ⟨hopcode, hbytes⟩ := hmk off
  rw [hexec, runInstr_eq _ opcode _ s hopcode, hcycles, branchBody]
  refine ⟨by rw [encode_eq hopcode, hbytes], fun hstay => ?_, fun htaken => ?_⟩
  · rw [if_neg (mt (hcond s).1 hstay)]
    rfl
  · refine ⟨branchTarget s.pc off, toNat_branchTarget s.pc off, ?_⟩
    rw [if_pos ((hcond s).2 htaken), conclude_done, branch_cycles]
    rfl

/-- Settles O43: each runs the branch body on its flag. -/
theorem branchesJumpFromTheNextInstruction : Obligations.BranchesJumpFromTheNextInstruction :=
  have clear (f : Flag) (s : State) : (!s.flag f) = true ↔ s.flag f = false := iff_of_eq (Bool.not_eq_true' _)
  ⟨branchInstr_of_body (clear .c) (fun _ => ⟨rfl, rfl⟩) rfl fun _ _ => rfl,
    branchInstr_of_body (fun _ => Iff.rfl) (fun _ => ⟨rfl, rfl⟩) rfl fun _ _ => rfl,
    branchInstr_of_body (fun _ => Iff.rfl) (fun _ => ⟨rfl, rfl⟩) rfl fun _ _ => rfl,
    branchInstr_of_body (clear .z) (fun _ => ⟨rfl, rfl⟩) rfl fun _ _ => rfl,
    branchInstr_of_body (fun _ => Iff.rfl) (fun _ => ⟨rfl, rfl⟩) rfl fun _ _ => rfl,
    branchInstr_of_body (clear .n) (fun _ => ⟨rfl, rfl⟩) rfl fun _ _ => rfl,
    branchInstr_of_body (clear .v) (fun _ => ⟨rfl, rfl⟩) rfl fun _ _ => rfl,
    branchInstr_of_body (fun _ => Iff.rfl) (fun _ => ⟨rfl, rfl⟩) rfl fun _ _ => rfl⟩

/-! ## Jumps -/

/-- Settles O44: JMP ends as resolving its address does; neither row carries a `+`, so no extra cycle is due. -/
theorem jumpLoadsPc : Obligations.JumpLoadsPc := by
  intro row dst s hrow hmode
  obtain ⟨hlisted, hsens⟩ := (by decide : ∀ row ∈ jmpRows, ListedFor .jmp row ∧ row.sensitive = false) row hrow
  have hexec : exec (.jmp dst) s = conclude row.cycles
      ((resolve dst row.sensitive s).bind fun r t => .done r.2.toNat (t.setPc r.1)) := by
    rw [exec, execJmp, runInstr_of_listed (i := .jmp dst) hlisted hmode]
  rw [hexec, hsens]
  refine ⟨encode_of_listed hlisted hmode, length_encode_of_listed hlisted hmode, fun ea x t hresolve => ?_,
    fun f t hresolve => ?_⟩
  · obtain rfl : x = false := (resolve_extra dst s).of_done hresolve
    rw [hresolve]
    rfl
  · rw [hresolve]
    rfl

/-- JSR ends as the push of its return address does. -/
theorem exec_jsr (dst : Word) (s : State) :
    (∀ t, pushWord (s.pc - 1) s = .done () t → exec (.jsr dst) s = .next ((t.setPc dst).answered (.cycles 6))) ∧
      ∀ f t, pushWord (s.pc - 1) s = .raised f t → exec (.jsr dst) s = .next (t.answered (.fault f)) := by
  obtain ⟨hdone, hraised⟩ := exec_of_plainBody (i := .jsr dst) (s := s) rfl rfl
  exact ⟨fun t hpush => hdone _ (by rw [hpush, Run.bind_done]),
    fun f t hpush => hraised f t (by rw [hpush, Run.bind_raised])⟩

/-- RTS ends as the pull of its return address does. -/
theorem exec_rts (s : State) :
    (∀ w t, pullWord s = .done w t → exec .rts s = .next ((t.setPc (w + 1)).answered (.cycles 6))) ∧
      ∀ f t, pullWord s = .raised f t → exec .rts s = .next (t.answered (.fault f)) := by
  obtain ⟨hdone, hraised⟩ := exec_of_plainBody (i := .rts) (s := s) rfl rfl
  exact ⟨fun w t hpull => hdone _ (by rw [hpull, Run.bind_done]),
    fun f t hpull => hraised f t (by rw [hpull, Run.bind_raised])⟩

/-- Settles O45: the two bytes are those of PC - 1, and the push of a word is the two pushes. -/
theorem subroutineCall : Obligations.SubroutineCall := by
  intro dst s
  obtain ⟨hdone, hraised⟩ := exec_jsr dst s
  refine ⟨⟨lowByte dst, highByte dst, encode_eq rfl, ?_⟩, highByte (s.pc - 1), lowByte (s.pc - 1), ?_,
    fun t u hhi hlo => ?_, fun f t hhi => ?_, fun t f u hhi hlo => ?_⟩
  · rw [← toNat_joinBytes, joinBytes_high_low]
  · rw [← toNat_joinBytes, joinBytes_high_low]
    bv_omega
  · exact hdone u (by rw [pushWord, hhi, Run.bind_done, hlo])
  · exact hraised f t (by rw [pushWord, hhi, Run.bind_raised])
  · exact hraised f u (by rw [pushWord, hhi, Run.bind_done, hlo])

/-- Settles O46: the pull of a word is the two pulls, the low byte first. -/
theorem subroutineReturn : Obligations.SubroutineReturn := by
  refine ⟨encode_eq rfl, fun s => ?_⟩
  obtain ⟨hdone, hraised⟩ := exec_rts s
  refine ⟨fun lo t hi u hlo hhi => ⟨joinBytes hi lo + 1, ?_, ?_⟩, fun f t hlo => ?_, fun lo t f u hlo hhi => ?_⟩
  · rw [BitVec.toNat_add, toNat_joinBytes]
    rfl
  · exact hdone (joinBytes hi lo) u (by rw [pullWord, hlo, Run.bind_done, hhi, Run.bind_done])
  · exact hraised f t (by rw [pullWord, hlo, Run.bind_raised])
  · exact hraised f u (by rw [pullWord, hlo, Run.bind_done, hhi, Run.bind_raised])

/-! ## A word on a stack in plain storage -/

/-- Two slots of the stack never share a byte, mirrored RAM included: their low bytes differ. -/
theorem not_sameByte_stackSlot (map : Config.AddressMap) (s : State) {j k : Byte} (h : j ≠ k) :
    ¬ SameByte map (stackSlot s j) (stackSlot s k) := by
  have hlow : (s.sp - j).toNat ≠ (s.sp - k).toNat := by bv_omega
  have hj := (s.sp - j).isLt
  have hk := (s.sp - k).isLt
  have hmod : (stackSlot s j).toNat % 2048 ≠ (stackSlot s k).toNat % 2048 := by
    rw [stackSlot, stackSlot, toNat_joinBytes, toNat_joinBytes]
    omega
  rintro (heq | ⟨-, -, heq⟩)
  · exact hmod (by rw [heq])
  · exact hmod heq

/-- A byte pushed to plain storage is put in the slot that S names. -/
theorem push_plain {s : State} {slot : Word} (hslot : s.stackAddr = slot) (h : s.Plain slot) (v : Byte) :
    ∃ tr, push v s = .done () { s.putByte slot v with sp := s.sp - 1, trace := tr } := by
  subst hslot
  exact ⟨_, push_store v s h.onWrite⟩

/-- A word pushed to plain storage lies there, the high byte above the low one. -/
theorem pushWord_plain {s : State} (h0 : s.Plain (stackSlot s 0)) (h1 : s.Plain (stackSlot s 1)) (w : Word) :
    ∃ m tr, pushWord w s = .done () { s with sp := s.sp - 2, mem := m, trace := tr } ∧
      (s.setMem m).byteAt (stackSlot s 0) = highByte w ∧ (s.setMem m).byteAt (stackSlot s 1) = lowByte w := by
  obtain ⟨tr, hhi⟩ := push_plain (stackSlot_zero s).symm h0 (highByte w)
  obtain ⟨tr', hlo⟩ := push_plain (slot := stackSlot s 1)
    (s := { s.putByte (stackSlot s 0) (highByte w) with sp := s.sp - 1, trace := tr }) rfl h1 (lowByte w)
  have hsp : s.sp - 1 - 1 = s.sp - 2 := by bv_omega
  have hkept := State.putByte_byteAt_other (s := s.putByte (stackSlot s 0) (highByte w))
    (not_sameByte_stackSlot s.map s (j := 0) (k := 1) (by decide)) (lowByte w)
  rw [pushWord, hhi, Run.bind_done, hlo, ← hsp]
  exact ⟨_, tr', rfl, hkept.trans (State.putByte_byteAt_same (.inl rfl) _),
    State.putByte_byteAt_same (s := s.putByte (stackSlot s 0) (highByte w)) (.inl rfl) _⟩

/-- A word is pulled from the next two slots in plain storage, the low byte from the first. -/
theorem pullWord_plain {s : State} {lo hi w : Word} (hlo : joinBytes s.cfg.stackPage (s.sp + 1) = lo)
    (hhi : joinBytes s.cfg.stackPage (s.sp + 2) = hi) (hloPlain : s.Plain lo) (hhiPlain : s.Plain hi)
    (hlow : s.byteAt lo = lowByte w) (hhigh : s.byteAt hi = highByte w) :
    ∃ tr, pullWord s = .done w { s with sp := s.sp + 2, trace := tr } := by
  have hsp : s.sp + 1 + 1 = s.sp + 2 := by bv_omega
  have hword : joinBytes (s.byteAt hi) (s.byteAt lo) = w := by rw [hhigh, hlow, joinBytes_high_low]
  subst hlo
  rw [← hsp] at hhi ⊢
  subst hhi
  rw [pullWord, pull_stored s hloPlain.onRead, Run.bind_done, pull_stored _ hhiPlain.onRead, ← hword]
  exact ⟨_, rfl⟩

/-- Settles O47: RTS pulls the word that JSR pushed, PC - 1. -/
theorem returnUndoesCall : Obligations.ReturnUndoesCall := by
  intro dst s h0 h1
  obtain ⟨m, tr, hpush, hhi, hlo⟩ := pushWord_plain h0 h1 (s.pc - 1)
  have hlow : joinBytes s.cfg.stackPage (s.sp - 2 + 1) = stackSlot s 1 := congrArg (joinBytes _) (by bv_omega)
  have hhigh : joinBytes s.cfg.stackPage (s.sp - 2 + 2) = stackSlot s 0 := congrArg (joinBytes _) (by bv_omega)
  obtain ⟨tr', hpull⟩ := pullWord_plain
    (s := { s with sp := s.sp - 2, pc := dst, mem := m, trace := tr, answer := .cycles 6 }) hlow hhigh h1 h0 hlo hhi
  obtain ⟨hjsr, -⟩ := exec_jsr dst s
  refine ⟨_, _, hjsr _ hpush, rfl, rfl, (exec_rts _).1 _ _ hpull, rfl, ?_, ?_, rfl, rfl, rfl, rfl⟩
  · exact BitVec.sub_add_cancel s.pc 1
  · exact BitVec.sub_add_cancel s.sp 2

end Sys2Proof.Machine

/-!
Settles the statements of spec/47_flag_ops_break.md. The flag instructions and NOP are register-only. BRK and RTI end as
their plain actions do; `enterTrap_eq` and `returnFromTrap_eq` write the trap entry and return out as one chain of
accesses in which P, the vector and what is pushed are those of the state before, for no access changes P or the
parameters. O52 goes by what the trap entry leaves on a stack in plain storage (`enterTrap_plain`) and what the trap
return finds there (`returnFromTrap_plain`).
-/

namespace Sys2Proof.Machine
open Claims

/-! ## Flag instructions and NOP -/

theorem forces_putFlag (f : Flag) (val : Bool) (s : State) (r : Answer) :
    Forces f val s ((s.setP (putFlag f val s.p)).answered r) :=
  ⟨rfl, (getFlag_putFlag f f val s.p).trans (if_pos rfl), keepsOther_putFlag f val s.p⟩

/-- Settles O48: each is a register-only instruction that puts its flag. -/
theorem flagInstructionsForceOneFlag : Obligations.FlagInstructionsForceOneFlag :=
  ⟨registerInstr_of_body rfl rfl (fun _ => rfl) (forces_putFlag .c false),
    registerInstr_of_body rfl rfl (fun _ => rfl) (forces_putFlag .c true),
    registerInstr_of_body rfl rfl (fun _ => rfl) (forces_putFlag .i false),
    registerInstr_of_body rfl rfl (fun _ => rfl) (forces_putFlag .i true),
    registerInstr_of_body rfl rfl (fun _ => rfl) (forces_putFlag .v false),
    registerInstr_of_body rfl rfl (fun _ => rfl) (forces_putFlag .d false),
    registerInstr_of_body rfl rfl (fun _ => rfl) (forces_putFlag .d true)⟩

/-- Settles O49: NOP is a register-only instruction whose effect is none. -/
theorem noOperationChangesNothing : Obligations.NoOperationChangesNothing :=
  registerInstr_of_body rfl rfl (fun _ => rfl) fun _ _ => rfl

/-! ## BRK and RTI, access by access -/

theorem Run.bind_assoc {α β γ : Type} (run : Run α) (k : α → State → Run β) (l : β → State → Run γ) :
    (run.bind k).bind l = run.bind fun v t => (k v t).bind l := by
  cases run with
  | done v t => rfl
  | raised f t => rfl

/-- What follows a run matters only where the run is done. -/
theorem Run.bind_congr {α β : Type} {run : Run α} {k l : α → State → Run β}
    (h : ∀ v t, run = .done v t → k v t = l v t) : run.bind k = run.bind l := by
  cases run with
  | done v t => exact h v t rfl
  | raised f t => rfl

/-- A push that is done leaves P and the parameters as they were. -/
theorem p_cfg_of_push_done {v : Byte} {s t : State} (h : push v s = .done () t) : t.p = s.p ∧ t.cfg = s.cfg := by
  obtain ⟨ht, -⟩ := (push_post v s).of_done h
  rw [ht]
  exact ⟨rfl, rfl⟩

/-- The byte BRK pushes, B being set already. -/
theorem pushedStatus_setB (p : Byte) : pushedStatus (putFlag .b true p) = p ||| 0x30 :=
  BitVec.or_assoc p 0x10 0x30

theorem setI_setB (p : Byte) : putFlag .i true (putFlag .b true p) = p ||| 0x14 :=
  BitVec.or_assoc p 0x10 0x04

/-- The trap entry as five accesses, in the order of R203. -/
theorem enterTrap_eq (s : State) : enterTrap s =
    (push (highByte (s.pc + 1)) s).bind fun _ t1 =>
    (push (lowByte (s.pc + 1)) t1).bind fun _ t2 =>
    (push (s.p ||| 0x30) { t2 with p := s.p ||| 0x10 }).bind fun _ t3 =>
    (memRead s.cfg.brkVector { t3 with p := s.p ||| 0x14 }).bind fun l t4 =>
    (memRead (s.cfg.brkVector + 1) t4).bind fun h t5 => .done () (t5.setPc (joinBytes h l)) := by
  rw [enterTrap, pushWord, Run.bind_assoc]
  refine Run.bind_congr fun _ t1 h1 => Run.bind_congr fun _ t2 h2 => ?_
  obtain ⟨hp1, hcfg1⟩ := p_cfg_of_push_done h1
  obtain ⟨hp2, hcfg2⟩ := p_cfg_of_push_done h2
  rw [hp2.trans hp1, pushedStatus_setB]
  refine Run.bind_congr fun _ t3 h3 => ?_
  obtain ⟨hp3, hcfg3⟩ := p_cfg_of_push_done h3
  have hp : t3.p = putFlag .b true s.p := hp3
  have hcfg : t3.cfg = s.cfg := hcfg3.trans (hcfg2.trans hcfg1)
  conv_lhs => rw [hp, hcfg, setI_setB, memReadWord, Run.bind_assoc]
  exact Run.bind_congr fun l t4 _ => Run.bind_assoc _ _ _

/-- The trap return as three pulls, in the order of R204. -/
theorem returnFromTrap_eq (s : State) : returnFromTrap s =
    (pull s).bind fun v t1 =>
    (pull { t1 with p := pulledStatus v s.p }).bind fun lo t2 =>
    (pull t2).bind fun hi t3 => .done () (t3.setPc (joinBytes hi lo)) := by
  refine Run.bind_congr fun v t1 h1 => ?_
  rw [p_of_pull_done h1, pullWord, Run.bind_assoc]
  exact Run.bind_congr fun lo t2 _ => Run.bind_assoc _ _ _

/-- Without vectoring BRK sets B. -/
theorem exec_brk_off {s : State} (hoff : s.cfg.brkVectoring = false) :
    exec .brk s = .next ((s.setP (putFlag .b true s.p)).answered (.cycles 7)) := by
  obtain ⟨hdone, -⟩ := exec_of_plainBody (i := .brk) (s := s) rfl rfl
  exact hdone _ (if_neg (by simp [hoff]))

/-- With vectoring BRK ends as the trap entry does. -/
theorem exec_brk_on {s : State} (hon : s.cfg.brkVectoring = true) :
    (∀ t, enterTrap s = .done () t → exec .brk s = .next (t.answered (.cycles 7))) ∧
      ∀ f t, enterTrap s = .raised f t → exec .brk s = .next (t.answered (.fault f)) := by
  have haction : breakAction s = enterTrap s := if_pos hon
  rw [← haction]
  exact exec_of_plainBody (i := .brk) rfl rfl

/-- RTI ends as the trap return does. -/
theorem exec_rti (s : State) :
    (∀ t, returnFromTrap s = .done () t → exec .rti s = .next (t.answered (.cycles 6))) ∧
      ∀ f t, returnFromTrap s = .raised f t → exec .rti s = .next (t.answered (.fault f)) :=
  exec_of_plainBody (i := .rti) rfl rfl

/-- Settles O50: the clauses follow the chain of `enterTrap_eq`, one access at a time. -/
theorem softwareBreak : Obligations.SoftwareBreak := by
  refine ⟨encode_eq rfl, fun s => ⟨fun hoff => ⟨_, exec_brk_off hoff, forces_putFlag .b true s _, rfl⟩, fun hon => ?_⟩⟩
  obtain ⟨hdone, hraised⟩ := exec_brk_on hon
  have hentry := enterTrap_eq s
  refine ⟨highByte (s.pc + 1), lowByte (s.pc + 1), ?_, fun f t1 h1 => ?_, fun t1 h1 => ?_⟩
  · rw [← toNat_joinBytes, joinBytes_high_low, BitVec.toNat_add]
    rfl
  · exact hraised f t1 (by rw [hentry, h1, Run.bind_raised])
  rw [h1, Run.bind_done] at hentry
  refine ⟨fun f t2 h2 => ?_, fun t2 h2 => ?_⟩
  · exact hraised f t2 (by rw [hentry, h2, Run.bind_raised])
  rw [h2, Run.bind_done] at hentry
  refine ⟨fun f t3 h3 => ?_, fun t3 h3 => ?_⟩
  · exact hraised f t3 (by rw [hentry, h3, Run.bind_raised])
  rw [h3, Run.bind_done] at hentry
  refine ⟨fun f t4 hl => ?_, fun l t4 hl => ?_⟩
  · exact hraised f t4 (by rw [hentry, hl, Run.bind_raised])
  rw [hl, Run.bind_done] at hentry
  refine ⟨fun f t5 hh => ?_, fun h t5 hh => ⟨joinBytes h l, toNat_joinBytes h l, ?_⟩⟩
  · exact hraised f t5 (by rw [hentry, hh, Run.bind_raised])
  · exact hdone (t5.setPc (joinBytes h l)) (by rw [hentry, hh, Run.bind_done])

/-- Settles O51: the clauses follow the chain of `returnFromTrap_eq`, one pull at a time. -/
theorem returnFromInterrupt : Obligations.ReturnFromInterrupt := by
  refine ⟨encode_eq rfl, fun s => ?_⟩
  obtain ⟨hdone, hraised⟩ := exec_rti s
  have hreturn := returnFromTrap_eq s
  refine ⟨fun f t1 h1 => hraised f t1 (by rw [hreturn, h1, Run.bind_raised]), fun v t1 h1 => ?_⟩
  rw [h1, Run.bind_done] at hreturn
  refine ⟨pulledStatus v s.p, by simp, by simp, fun f hu hb => by simp [hu, hb], fun f t2 h2 => ?_, fun lo t2 h2 => ?_⟩
  · exact hraised f t2 (by rw [hreturn, h2, Run.bind_raised])
  rw [h2, Run.bind_done] at hreturn
  refine ⟨fun f t3 h3 => ?_, fun hi t3 h3 => ⟨joinBytes hi lo, toNat_joinBytes hi lo, ?_⟩⟩
  · exact hraised f t3 (by rw [hreturn, h3, Run.bind_raised])
  · exact hdone (t3.setPc (joinBytes hi lo)) (by rw [hreturn, h3, Run.bind_done])

/-! ## BRK and then RTI, on a stack in plain storage -/

/-- The trap entry leaves PC + 1 and, below it, the status byte on the stack. -/
theorem enterTrap_plain {s : State} (h0 : s.Plain (stackSlot s 0)) (h1 : s.Plain (stackSlot s 1))
    (h2 : s.Plain (stackSlot s 2)) (hlo : (lawAt s.map s.cfg.brkVector).onRead = .stored)
    (hhi : (lawAt s.map (s.cfg.brkVector + 1)).onRead = .stored) :
    ∃ w m tr, enterTrap s = .done () { s with
        sp := s.sp - 3, p := putFlag .i true (putFlag .b true s.p), pc := w, mem := m, trace := tr } ∧
      (s.setMem m).byteAt (stackSlot s 0) = highByte (s.pc + 1) ∧
      (s.setMem m).byteAt (stackSlot s 1) = lowByte (s.pc + 1) ∧
      (s.setMem m).byteAt (stackSlot s 2) = pushedStatus (putFlag .b true s.p) := by
  obtain ⟨m, tr, hword, hhigh, hlow⟩ := pushWord_plain h0 h1 (s.pc + 1)
  obtain ⟨tr', hstatus⟩ := push_plain (slot := stackSlot s 2)
    (s := { s with sp := s.sp - 2, p := putFlag .b true s.p, mem := m, trace := tr }) rfl h2
    (pushedStatus (putFlag .b true s.p))
  have hsp : s.sp - 2 - 1 = s.sp - 3 := by bv_omega
  have hkept {k : Byte} (hk : k ≠ 2) := State.putByte_byteAt_other (s := s.setMem m)
    (not_sameByte_stackSlot s.map s hk) (pushedStatus (putFlag .b true s.p))
  rw [enterTrap, hword, Run.bind_done, State.setP, hstatus, Run.bind_done, memReadWord_stored, Run.bind_done, ← hsp]
  · exact ⟨_, _, _, rfl, (hkept (by decide)).trans hhigh, (hkept (by decide)).trans hlow,
      State.putByte_byteAt_same (s := s.setMem m) (.inl rfl) _⟩
  · exact hlo
  · exact hhi

/-- The trap return takes P and, above it, PC from the stack. -/
theorem returnFromTrap_plain {s : State} {status lo hi w : Word} {v : Byte}
    (hstatus : joinBytes s.cfg.stackPage (s.sp + 1) = status) (hlo : joinBytes s.cfg.stackPage (s.sp + 2) = lo)
    (hhi : joinBytes s.cfg.stackPage (s.sp + 3) = hi) (hstatusPlain : s.Plain status) (hloPlain : s.Plain lo)
    (hhiPlain : s.Plain hi) (hv : s.byteAt status = v) (hlow : s.byteAt lo = lowByte w)
    (hhigh : s.byteAt hi = highByte w) :
    ∃ tr, returnFromTrap s = .done () { s with sp := s.sp + 3, p := pulledStatus v s.p, pc := w, trace := tr } := by
  have hsp2 : s.sp + 1 + 1 = s.sp + 2 := by bv_omega
  have hsp3 : s.sp + 1 + 2 = s.sp + 3 := by bv_omega
  subst hstatus
  rw [← hsp2] at hlo
  rw [← hsp3] at hhi ⊢
  rw [returnFromTrap, pull_stored s hstatusPlain.onRead, Run.bind_done, hv]
  obtain ⟨tr, hpull⟩ := pullWord_plain (s := { s with
    sp := s.sp + 1, p := pulledStatus v s.p, trace := s.trace ++ [.read (joinBytes s.cfg.stackPage (s.sp + 1)) v] })
    hlo hhi hloPlain hhiPlain hlow hhigh
  exact ⟨tr, congrArg (Run.bind · _) hpull⟩

/-- Settles O52: RTI finds the status byte and PC + 1 that BRK left, and B as BRK set it. -/
theorem returnFromBreak : Obligations.ReturnFromBreak := by
  intro s hon h0 h1 h2 hlo hhi
  obtain ⟨w, m, tr, henter, hhigh, hlow, hv⟩ := enterTrap_plain h0 h1 h2 hlo hhi
  have hslot2 : joinBytes s.cfg.stackPage (s.sp - 3 + 1) = stackSlot s 2 := congrArg (joinBytes _) (by bv_omega)
  have hslot1 : joinBytes s.cfg.stackPage (s.sp - 3 + 2) = stackSlot s 1 := congrArg (joinBytes _) (by bv_omega)
  have hslot0 : joinBytes s.cfg.stackPage (s.sp - 3 + 3) = stackSlot s 0 := congrArg (joinBytes _) (by bv_omega)
  obtain ⟨tr', hreturn⟩ := returnFromTrap_plain (s := { s with
    sp := s.sp - 3, p := putFlag .i true (putFlag .b true s.p), pc := w, mem := m, trace := tr, answer := .cycles 7 })
    hslot2 hslot1 hslot0 h2 h1 h0 hv hlow hhigh
  refine ⟨_, _, (exec_brk_on hon).1 _ henter, rfl, ?_, (exec_rti _).1 _ hreturn, rfl, rfl, ?_, rfl, rfl, rfl, ?_, ?_,
    fun f hb hu => ?_⟩
  · simp [State.flag]
  · exact BitVec.sub_add_cancel s.sp 3
  · simp [State.flag]
  · simp [State.flag]
  · simp [State.flag, hb, hu]

end Sys2Proof.Machine

/-!
Settles the statements of spec/60_exceptions.md and spec/70_reset_and_hazards.md. O10 and O21 read off one lemma,
`exec_ended`: an instruction has completed with exactly the transactions that R253 lists for it, or it has faulted, and
then it is unsupported or the environment does not back every address. That is said of every part of an instruction by
`Run.Makes`, from the two memory primitives up. O53 to O55 follow the two reads of `Reset()`.
-/

/-! ## Bytes and transactions of an opcode (spec/70_reset_and_hazards.md R253) -/

namespace Sys2Proof
open Claims

/-- The mode of a form, so the number of its transactions, does not depend on the operand bytes. -/
theorem transactions_build (on : Bool) (op : Operation) (opcode : Byte) (mode : Mode) (aa bb : Byte) :
    transactions on (op.build opcode mode aa bb) = transactions on (op.build opcode mode 0 0) := by
  have hmem : (memForm mode aa bb).mode = (memForm mode 0 0).mode := by cases mode <;> rfl
  have hread : (readForm mode aa bb).mode = (readForm mode 0 0).mode := by
    unfold readForm
    split
    · rfl
    · exact hmem
  have hshift : (shiftForm mode aa bb).mode = (shiftForm mode 0 0).mode := by
    unfold shiftForm
    split
    · rfl
    · exact hmem
  cases op with
  | lda | ldx | ldy | adc | sbc | and | ora | eor | cmp | cpx | cpy =>
    simp only [Operation.build, transactions, hread]
  | asl | lsr | rol | ror => simp only [Operation.build, transactions, hshift]
  | sta | stx | sty | inc | dec | bit | jmp => simp only [Operation.build, transactions, hmem]
  | _ => rfl

/-- Each official opcode: its bytes and its transactions against its base count. -/
theorem transactions_assemble_le : ∀ (on : Bool) (b : Byte), operationOf b ≠ .unsupported →
    (modeOf b).operandBytes + 1 + transactions on (assemble b 0 0) ≤ baseCycles b := by
  decide +kernel

/-- An official instruction's bytes and transactions together are at most its base count. -/
theorem bytes_add_transactions_le {i : Instr} {b : Byte} (hb : i.opcode = some b) (hi : i.operation ≠ .unsupported)
    (on : Bool) : (encode i).length + transactions on i ≤ baseCycles b := by
  obtain ⟨hop, hmode, hlen⟩ := (encodable i).2 b hb
  have hcount : transactions on i = transactions on (assemble b 0 0) := by
    rw [← instrOf_operandBytes hb]
    exact transactions_build on _ b _ _ _
  rw [encode_eq hb, List.length_cons, hlen, ← hmode, hcount]
  exact transactions_assemble_le on b (hop ▸ hi)

theorem assemble_unsupported {b : Byte} (hb : operationOf b = .unsupported) (aa bb : Byte) :
    assemble b aa bb = .unsupported b := by
  rw [assemble, hb]
  rfl

theorem MemForm.mode_ne_imm (m : MemForm) : m.mode ≠ .imm := by
  cases m <;> nofun

theorem MemForm.mode_ne_acc (m : MemForm) : m.mode ≠ .acc := by
  cases m <;> nofun

end Sys2Proof

namespace Sys2Proof.Machine
open Claims

/-! ## Runs and the transactions they make -/

/-- From `s` to `t` the bus made the transactions that `l` asks for, in order, each answered `ok`; the map and the
parameters stayed. -/
structure Made (s : State) (l : List (Dir × Word)) (t : State) : Prop where
  trace : ∃ made, t.trace = s.trace ++ made ∧ made.map granted = l.map some
  map : t.map = s.map
  cfg : t.cfg = s.cfg

/-- The run makes the transactions `l` from `s`, and `D` holds where it is done; it can raise only where some address is
not backed. -/
def Run.Makes {α : Type} (s : State) (l : List (Dir × Word)) (D : α → State → Prop) (run : Run α) : Prop :=
  run.Post (fun v t => Made s l t ∧ D v t) fun _ _ => ¬ Backed s.map

section Makes
variable {α β : Type} {s t u : State} {l l' : List (Dir × Word)} {D E : α → State → Prop}

/-- A state that differs in neither trace, map nor parameters. -/
theorem Made.quiet (htrace : t.trace = s.trace) (hmap : t.map = s.map) (hcfg : t.cfg = s.cfg) : Made s [] t :=
  ⟨⟨[], by rw [htrace, List.append_nil], rfl⟩, hmap, hcfg⟩

theorem Made.one {x : BusTxn} {a : Dir × Word} (hgranted : granted x = some a) (htrace : t.trace = s.trace ++ [x])
    (hmap : t.map = s.map) (hcfg : t.cfg = s.cfg) : Made s [a] t :=
  ⟨⟨[x], htrace, congrArg (· :: []) hgranted⟩, hmap, hcfg⟩

theorem Made.trans (h : Made s l t) (k : Made t l' u) : Made s (l ++ l') u := by
  obtain ⟨made, htrace, hgranted⟩ := h.trace
  obtain ⟨made', htrace', hgranted'⟩ := k.trace
  refine ⟨⟨made ++ made', ?_, ?_⟩, k.map.trans h.map, k.cfg.trans h.cfg⟩
  · rw [htrace', htrace, List.append_assoc]
  · rw [List.map_append, List.map_append, hgranted, hgranted']

theorem Run.Makes.done {v : α} (h : Made s l t) (hd : D v t) : (Run.done v t).Makes s l D :=
  ⟨h, hd⟩

theorem Run.Makes.mono {run : Run α} (h : run.Makes s l D) (hde : ∀ v t, D v t → E v t) : run.Makes s l E :=
  Run.Post.mono h (fun v t hv => ⟨hv.1, hde v t hv.2⟩) fun _ _ hf => hf

/-- In place of `D`, what follows from the run's being done with this value and state. -/
theorem Run.Makes.and_done {run : Run α} (h : run.Makes s l D) (he : ∀ v t, run = .done v t → E v t) :
    run.Makes s l E := by
  cases run with
  | done v t => exact ⟨h.1, he v t rfl⟩
  | raised f t => exact h

/-- What a run makes from `t` follows what was made from `s` to `t`. -/
theorem Run.Makes.after {run : Run α} (h : Made s l t) (k : run.Makes t l' D) : run.Makes s (l ++ l') D :=
  Run.Post.mono k (fun _ _ hu => ⟨h.trans hu.1, hu.2⟩) fun _ _ hf => h.map ▸ hf

/-- A run from a state with the same trace, map and parameters. -/
theorem Run.Makes.quietly {run : Run α} (h : run.Makes t l D) (htrace : t.trace = s.trace) (hmap : t.map = s.map)
    (hcfg : t.cfg = s.cfg) : run.Makes s l D :=
  h.after (.quiet htrace hmap hcfg)

/-- The transactions of the second part follow those of the first; they may depend on its value. -/
theorem Run.Makes.bind {run : Run α} {k : α → State → Run β} {L : List (Dir × Word)} {E : β → State → Prop}
    (h : run.Makes s l D) (hk : ∀ v t, Made s l t → D v t → ∃ l', L = l ++ l' ∧ (k v t).Makes t l' E) :
    (run.bind k).Makes s L E := by
  refine Run.Post.bind h fun v t ⟨ht, hv⟩ => ?_
  obtain ⟨l', rfl, hl'⟩ := hk v t ht hv
  exact hl'.after ht

/-- A part that ends with a value and a state the bus has no part in makes no more transactions. -/
theorem Run.Makes.finish {run : Run α} {g : α → State → β} {f : α → State → State} {E : β → State → Prop}
    (h : run.Makes s l D) (hf : ∀ v t, Made t [] (f v t)) (he : ∀ v t, D v t → E (g v t) (f v t)) :
    (run.bind fun v t => .done (g v t) (f v t)).Makes s l E :=
  h.bind fun v t _ hv => ⟨[], (List.append_nil l).symm, .done (hf v t) (he v t hv)⟩

end Makes

section Operations
variable {s t : State}

/-! ### The memory primitives -/

theorem memRead_makes (addr : Word) (s : State) :
    (memRead addr s).Makes s [(.read, addr)] fun _ t => BusOnly s t := by
  unfold memRead
  split
  · exact .done (.one rfl rfl rfl rfl) rfl
  · exact .done (.one rfl rfl rfl rfl) rfl
  · next hlaw => exact fun hbacked => by simpa [hlaw] using (hbacked addr).1
  · next hlaw =>
    split
    · exact .done (.one rfl rfl rfl rfl) rfl
    · exact fun hbacked => by simpa [hlaw] using (hbacked addr).1

theorem memWrite_makes (addr : Word) (v : Byte) (s : State) :
    (memWrite addr v s).Makes s [(.write, addr)] fun _ t => t.sp = s.sp := by
  unfold memWrite
  split
  · exact .done (.one rfl rfl rfl rfl) rfl
  · exact .done (.one rfl rfl rfl rfl) rfl
  · next hlaw => exact fun hbacked => by simpa [hlaw] using (hbacked addr).2
  · next hlaw =>
    split
    · exact .done (.one rfl rfl rfl rfl) rfl
    · exact fun hbacked => by simpa [hlaw] using (hbacked addr).2

theorem memReadWord_makes (lo hi : Word) (s : State) :
    (memReadWord lo hi s).Makes s [(.read, lo), (.read, hi)] fun _ _ => True :=
  (memRead_makes lo s).bind fun _ t _ _ => ⟨_, rfl, (memRead_makes hi t).finish (fun _ _ => .quiet rfl rfl rfl)
    fun _ _ _ => trivial⟩

/-! ### The stack, the trap entry and the trap return -/

/-- A push that is the `k`-th after `s`, counted from 0. -/
theorem push_makes {k : Byte} (v : Byte) (hsp : t.sp = s.sp - k) (hcfg : t.cfg = s.cfg) :
    (push v t).Makes t [(.write, stackSlot s k)] fun _ u => u.sp = s.sp - (k + 1) := by
  have hslot : t.stackAddr = stackSlot s k := by rw [State.stackAddr, hcfg, hsp, stackSlot]
  rw [push, hslot]
  refine (memWrite_makes _ v t).finish (fun _ _ => .quiet rfl rfl rfl) fun _ u hu => ?_
  rw [State.setSp_sp, hu, hsp, BitVec.sub_sub]

/-- A pull that is the `k`-th after `s`, counted from 0. -/
theorem pull_makes {k : Byte} (hsp : t.sp = s.sp + k) (hcfg : t.cfg = s.cfg) :
    (pull t).Makes t [(.read, pullSlot s (k + 1))] fun _ u => u.sp = s.sp + (k + 1) := by
  have hnext : t.sp + 1 = s.sp + (k + 1) := by rw [hsp, BitVec.add_assoc]
  have hslot : (t.setSp (t.sp + 1)).stackAddr = pullSlot s (k + 1) := by
    rw [State.stackAddr, State.setSp_cfg, State.setSp_sp, hcfg, hnext, pullSlot]
  rw [pull, hslot]
  refine Run.Makes.mono ((memRead_makes _ (t.setSp (t.sp + 1))).quietly rfl rfl rfl) fun _ u hu => ?_
  rw [hu]
  exact hnext

theorem pushWord_makes (w : Word) (s : State) :
    (pushWord w s).Makes s [(.write, stackSlot s 0), (.write, stackSlot s 1)] fun _ t => t.sp = s.sp - 2 :=
  (push_makes _ (BitVec.sub_zero _).symm rfl).bind fun _ _ ht hsp => ⟨_, rfl, push_makes _ hsp ht.cfg⟩

theorem pullWord_makes {k : Byte} (hsp : t.sp = s.sp + k) (hcfg : t.cfg = s.cfg) :
    (pullWord t).Makes t [(.read, pullSlot s (k + 1)), (.read, pullSlot s (k + 1 + 1))] fun _ _ => True :=
  (pull_makes hsp hcfg).bind fun _ _ hu husp => ⟨_, rfl,
    (pull_makes husp (hu.cfg.trans hcfg)).finish (fun _ _ => .quiet rfl rfl rfl) fun _ _ _ => trivial⟩

theorem enterTrap_makes (s : State) : (enterTrap s).Makes s
    [(.write, stackSlot s 0), (.write, stackSlot s 1), (.write, stackSlot s 2),
      (.read, s.cfg.brkVector), (.read, s.cfg.brkVector + 1)] fun _ _ => True := by
  refine (pushWord_makes (s.pc + 1) s).bind fun _ t ht hsp => ⟨_, rfl, ?_⟩
  have hstatus := push_makes (t := t.setP (putFlag .b true t.p)) (pushedStatus (putFlag .b true t.p)) hsp ht.cfg
  refine Run.Makes.bind (hstatus.quietly rfl rfl rfl) fun _ u hu _ => ⟨_, rfl, ?_⟩
  have hcfg : u.cfg = s.cfg := hu.cfg.trans ht.cfg
  rw [← hcfg]
  exact Run.Makes.finish ((memReadWord_makes _ _ _).quietly rfl rfl rfl) (fun _ _ => .quiet rfl rfl rfl)
    fun _ _ _ => trivial

theorem returnFromTrap_makes (s : State) : (returnFromTrap s).Makes s
    [(.read, pullSlot s 1), (.read, pullSlot s 2), (.read, pullSlot s 3)] fun _ _ => True := by
  refine (pull_makes (BitVec.add_zero _).symm rfl).bind fun v t ht hsp => ⟨_, rfl, ?_⟩
  have hword := pullWord_makes (t := t.setP (pulledStatus v t.p)) hsp ht.cfg
  exact Run.Makes.finish (hword.quietly rfl rfl rfl) (fun _ _ => .quiet rfl rfl rfl) fun _ _ _ => trivial

/-! ### Operands -/

theorem ofNat_eq_of_toNat {w : Word} {n : Nat} (h : w.toNat = n) : BitVec.ofNat 16 n = w :=
  BitVec.eq_of_toNat_eq (by rw [BitVec.toNat_ofNat, ← h, Nat.mod_eq_of_lt w.isLt])

theorem pointerAccesses_ind (ptr : Word) (s : State) :
    pointerAccesses (.ind ptr) s = [(.read, ptr), (.read, pointerHigh s.cfg.jmpIndWrap ptr)] := by
  rw [pointerAccesses]
  cases s.cfg.jmpIndWrap with
  | page => rw [← ofNat_eq_of_toNat (toNat_pointerHigh_page ptr)]
  | linear => rw [← ofNat_eq_of_toNat (toNat_pointerHigh_linear ptr)]

theorem pointerAccesses_izx (aa : Byte) (s : State) : pointerAccesses (.izx aa) s =
    [(.read, zeroExtend16 (aa + s.x)), (.read, zeroExtend16 (aa + s.x + 1))] := by
  have hhi : (zeroExtend16 (aa + s.x + 1)).toNat = (aa.toNat + s.x.toNat + 1) % 256 := by
    rw [toNat_zeroExtend16_add, BitVec.toNat_add]
    exact Nat.mod_add_mod _ 256 1
  rw [pointerAccesses, ofNat_eq_of_toNat (toNat_zeroExtend16_add aa s.x), ofNat_eq_of_toNat hhi]

theorem pointerAccesses_izy (aa : Byte) (s : State) : pointerAccesses (.izy aa) s =
    [(.read, zeroExtend16 aa), (.read, zeroExtend16 (aa + 1))] := by
  have hhi : (zeroExtend16 (aa + 1)).toNat = (aa.toNat + 1) % 256 := toNat_zeroExtend16_add aa 1
  rw [pointerAccesses, ofNat_eq_of_toNat (toNat_zeroExtend16 aa), ofNat_eq_of_toNat hhi]

/-- Resolving an address makes the pointer reads of its form, and comes to the address that the form names. -/
theorem resolve_makes (m : MemForm) (sens : Bool) (s : State) :
    (resolve m sens s).Makes s (pointerAccesses m s) fun r _ => resolved m s = [r.1] := by
  refine Run.Makes.and_done (D := fun _ _ => True) ?_ fun _ _ => resolved_of_resolve
  cases m with
  | zp | zpx | zpy | abs | abx | aby => exact .done (.quiet rfl rfl rfl) trivial
  | ind | izx | izy =>
    simp only [resolve, pointerAccesses_ind, pointerAccesses_izx, pointerAccesses_izy]
    exact (memReadWord_makes _ _ s).finish (E := fun _ _ => True) (fun _ t => .quiet rfl rfl rfl) fun _ _ _ => trivial

theorem length_pointerAccesses (m : MemForm) (s : State) : (pointerAccesses m s).length = pointerReads m.mode := by
  cases m <;> rfl

/-- A body that accesses its effective address in the directions `dirs` makes the data accesses of its form, as many as
R253 counts. -/
theorem resolve_bind_makes (m : MemForm) (sens : Bool) (dirs : List Dir) (s : State)
    {k : Word × Bool → State → Run Nat}
    (hk : ∀ r t, (k r t).Makes t (dirs.map fun d => (d, r.1)) fun _ _ => True) :
    ((resolve m sens s).bind k).Makes s (dataAccesses m dirs s)
      fun _ _ => (dataAccesses m dirs s).length = pointerReads m.mode + dirs.length := by
  refine (resolve_makes m sens s).bind fun r t _ hr => ⟨dirs.map fun d => (d, r.1), ?_, (hk r t).mono fun _ _ _ => ?_⟩
  · simp [dataAccesses, hr, ← List.map_eq_flatMap]
  · simp [dataAccesses, hr, length_pointerAccesses]

/-! ### Bodies -/

/-- What is asked of a body to read R253 off it: the transactions `l`, as many as `count`. -/
abbrev Run.MakesCounted (s : State) (l : List (Dir × Word)) (count : Nat) (run : Run Nat) : Prop :=
  run.Makes s l fun _ _ => l.length = count

theorem readBody_makes (m : MemForm) {eff : Byte → State → State} (sens : Bool) (s : State)
    (heff : ∀ v t, Made t [] (eff v t)) :
    (readBody (.mem m) eff sens s).MakesCounted s (dataAccesses m [.read] s) (pointerReads m.mode + 1) := by
  rw [readBody, operandValue, Run.bind_assoc]
  refine resolve_bind_makes m sens [.read] s fun r t => ?_
  rw [Run.bind_assoc]
  exact (memRead_makes r.1 t).finish heff fun _ _ _ => trivial

theorem storeBody_makes (m : MemForm) (v : Byte) (sens : Bool) (s : State) :
    (storeBody m v sens s).MakesCounted s (dataAccesses m [.write] s) (pointerReads m.mode + 1) :=
  resolve_bind_makes m sens [.write] s fun r t =>
    (memWrite_makes r.1 v t).finish (fun _ _ => .quiet rfl rfl rfl) fun _ _ _ => trivial

theorem modifyBody_makes (m : MemForm) (f g : Byte → Byte → Byte) (sens : Bool) (s : State) :
    (modifyBody m f g sens s).MakesCounted s (dataAccesses m [.read, .write] s) (pointerReads m.mode + 2) :=
  resolve_bind_makes m sens [.read, .write] s fun r t => (memRead_makes r.1 t).bind fun v u _ _ => ⟨_, rfl,
    (memWrite_makes r.1 (f v u.p) u).finish (fun _ _ => .quiet rfl rfl rfl) fun _ _ _ => trivial⟩

theorem shiftBody_makes (m : MemForm) (f : Byte → Byte → Byte × Bool) (sens : Bool) (s : State) :
    (shiftBody (.mem m) f sens s).MakesCounted s (dataAccesses m [.read, .write] s) (pointerReads m.mode + 2) := by
  rw [shiftBody]
  exact modifyBody_makes m _ _ sens s

theorem plainBody_makes {act : State → Run Unit} {l : List (Dir × Word)} {D : Unit → State → Prop} (sens : Bool)
    (h : (act s).Makes s l D) : (plainBody act sens s).MakesCounted s l l.length :=
  h.finish (fun _ _ => .quiet rfl rfl rfl) fun _ _ _ => rfl

theorem plainBody_bind_makes {α : Type} {act : State → Run α} {f : α → State → State} {l : List (Dir × Word)}
    {D : α → State → Prop} (sens : Bool) (h : (act s).Makes s l D) (hf : ∀ v t, Made t [] (f v t)) :
    (plainBody (fun s => (act s).bind fun v t => .done () (f v t)) sens s).MakesCounted s l l.length :=
  plainBody_makes sens (h.finish (E := fun _ _ => True) hf fun _ _ _ => trivial)

theorem branchBody_makes (cond : Bool) (off : Byte) (sens : Bool) (s : State) :
    (branchBody cond off sens s).MakesCounted s [] 0 := by
  unfold branchBody
  split
  · exact .done (.quiet rfl rfl rfl) rfl
  · exact .done (.quiet rfl rfl rfl) rfl

theorem accesses_brk (s : State) : accesses .brk s =
    if s.cfg.brkVectoring then
      [(.write, stackSlot s 0), (.write, stackSlot s 1), (.write, stackSlot s 2),
        (.read, s.cfg.brkVector), (.read, s.cfg.brkVector + 1)]
    else [] :=
  rfl

theorem breakAction_makes (s : State) : (breakAction s).Makes s (accesses .brk s) fun _ _ => True := by
  rw [accesses_brk]
  unfold breakAction
  split
  · exact enterTrap_makes s
  · exact .done (.quiet rfl rfl rfl) trivial

end Operations

/-! ## How an instruction ends -/

/-- From `s` the instruction ended in `t`: completed, after exactly the transactions of R253, or with a fault. -/
inductive Ended (i : Instr) (s t : State) : Prop
  | completed {b : Byte} {n : Nat} (opcode : i.opcode = some b) (official : i.operation ≠ .unsupported)
      (answer : t.answer = .cycles (baseCycles b + n)) (made : Made s (accesses i s) t)
      (count : (accesses i s).length = transactions s.cfg.brkVectoring i)
  | faulted {f : Fault} (answer : t.answer = .fault f) (cause : Backed s.map → i.operation = .unsupported)

theorem ended_of_runInstr {i : Instr} {body : Bool → State → Run Nat} {s t : State}
    (h : runInstr i body s = .next t) (hi : i.operation ≠ .unsupported)
    (hbody : ∀ sens, (body sens s).MakesCounted s (accesses i s) (transactions s.cfg.brkVectoring i)) :
    Ended i s t := by
  obtain ⟨b, hb, ⟨n, u, hr, rfl⟩ | ⟨f, u, hr, rfl⟩⟩ := runInstr_next h
  · obtain ⟨hmade, hcount⟩ := Run.Post.of_done (hbody (sensitive b)) hr
    exact .completed hb hi rfl ⟨hmade.trace, hmade.map, hmade.cfg⟩ hcount
  · exact .faulted rfl fun hbacked => absurd hbacked (Run.Post.of_raised (hbody (sensitive b)) hr)

/-- R253 of every instruction, by the body its meaning runs. -/
theorem exec_ended {i : Instr} {s t : State} (h : exec i s = .next t) : Ended i s t := by
  unfold exec at h
  cases i with
  | tax | tay | txa | tya | tsx | txs | inx | iny | dex | dey | clc | sec | cli | sei | clv | cld | sed | nop =>
    exact ended_of_runInstr h nofun fun _ => .done (.quiet rfl rfl rfl) rfl
  | lda src | ldx src | ldy src | adc src | sbc src | and src | ora src | eor src | cmp src | cpx src | cpy src =>
    cases src with
    | imm v => exact ended_of_runInstr h nofun fun _ => .done (.quiet rfl rfl rfl) rfl
    | mem m =>
      refine ended_of_runInstr h nofun fun sens => ?_
      rw [transactions, ReadForm.mode, if_neg m.mode_ne_imm]
      exact readBody_makes m sens s fun _ _ => .quiet rfl rfl rfl
  | bit m => exact ended_of_runInstr h nofun fun sens => readBody_makes m sens s fun _ _ => .quiet rfl rfl rfl
  | sta m | stx m | sty m => exact ended_of_runInstr h nofun fun sens => storeBody_makes m _ sens s
  | inc m | dec m => exact ended_of_runInstr h nofun fun sens => modifyBody_makes m _ _ sens s
  | asl dst | lsr dst | rol dst | ror dst =>
    cases dst with
    | acc => exact ended_of_runInstr h nofun fun _ => .done (.quiet rfl rfl rfl) rfl
    | mem m =>
      refine ended_of_runInstr h nofun fun sens => ?_
      rw [transactions, ShiftForm.mode, if_neg m.mode_ne_acc]
      exact shiftBody_makes m _ sens s
  | bcc off | bcs off | beq off | bmi off | bne off | bpl off | bvc off | bvs off =>
    exact ended_of_runInstr h nofun fun sens => branchBody_makes _ off sens s
  | jmp m =>
    exact ended_of_runInstr h nofun fun sens =>
      (resolve_makes m sens s).finish (fun _ _ => .quiet rfl rfl rfl) fun _ _ _ => length_pointerAccesses m s
  | jsr dst =>
    exact ended_of_runInstr h nofun fun sens =>
      plainBody_bind_makes sens (pushWord_makes (s.pc - 1) s) fun _ _ => .quiet rfl rfl rfl
  | rts =>
    exact ended_of_runInstr h nofun fun sens =>
      plainBody_bind_makes sens (pullWord_makes (k := 0) (BitVec.add_zero _).symm rfl) fun _ _ => .quiet rfl rfl rfl
  | pha | php =>
    exact ended_of_runInstr h nofun fun sens => plainBody_makes sens (push_makes _ (BitVec.sub_zero _).symm rfl)
  | pla | plp =>
    exact ended_of_runInstr h nofun fun sens =>
      plainBody_bind_makes sens (pull_makes (k := 0) (BitVec.add_zero _).symm rfl) fun _ _ => .quiet rfl rfl rfl
  | brk =>
    have hcount : (accesses .brk s).length = transactions s.cfg.brkVectoring .brk := by
      rw [accesses_brk, transactions]
      split
      · rfl
      · rfl
    exact ended_of_runInstr h nofun fun sens => hcount ▸ plainBody_makes sens (breakAction_makes s)
  | rti => exact ended_of_runInstr h nofun fun sens => plainBody_makes sens (returnFromTrap_makes s)
  | unsupported opcode =>
    have h : execUnsupported opcode s = .next t := h
    unfold execUnsupported at h
    split at h
    · obtain rfl := Host.Outcome.next.inj h
      exact .faulted rfl fun _ => rfl
    · cases h

/-- Settles O21: the transactions of an instruction that completed, and their number against its base count. -/
theorem busTransactionsPerInstruction : Obligations.BusTransactionsPerInstruction := by
  intro i s t n h hanswer
  cases exec_ended h with
  | @completed b extra hopcode hofficial hcycles hmade hcount =>
    obtain ⟨made, htrace, hgranted⟩ := hmade.trace
    have hlength : made.length = (accesses i s).length := by simpa using congrArg List.length hgranted
    refine ⟨⟨made, htrace, hgranted, hlength.trans hcount⟩, ?_⟩
    obtain rfl : baseCycles b + extra = n := Answer.cycles.inj (hcycles.symm.trans hanswer)
    exact le_add_right (bytes_add_transactions_le hopcode hofficial _)
  | faulted hfault => exact absurd (hfault.symm.trans hanswer) nofun

/-! ## A step where every address is backed -/

/-- Fetching operand bytes raises only where some address is not backed. -/
theorem fetchOperands_makes (mode : Mode) (s : State) :
    ∃ l, (fetchOperands mode s).Makes s l fun _ _ => True := by
  cases mode with
  | imp | acc | noMode => exact ⟨[], .done (.quiet rfl rfl rfl) trivial⟩
  | imm =>
    have hread := (memRead_makes s.pc (s.setPc (s.pc + 1))).quietly (s := s) rfl rfl rfl
    exact ⟨_, hread.finish (fun _ _ => .quiet rfl rfl rfl) fun _ _ _ => trivial⟩
  | zp | zpx | zpy | izx | izy | rel =>
    exact ⟨_, (memRead_makes s.pc s).finish (fun _ _ => .quiet rfl rfl rfl) fun _ _ _ => trivial⟩
  | abs | abx | aby | ind =>
    refine ⟨[(.read, s.pc), (.read, s.pc + 1)], (memRead_makes s.pc s).bind fun aa t _ ht => ⟨_, rfl, ?_⟩⟩
    have hpc : t.pc = s.pc := by rw [ht]
    rw [← hpc]
    exact (memRead_makes (t.pc + 1) t).finish (fun _ _ => .quiet rfl rfl rfl) fun _ _ _ => trivial

/-- Where every address is backed the run does not raise. -/
theorem Run.Makes.exists_done {α : Type} {s : State} {l : List (Dir × Word)} {D : α → State → Prop} {run : Run α}
    (h : run.Makes s l D) (hbacked : Backed s.map) : ∃ v t, run = .done v t ∧ Made s l t ∧ D v t := by
  cases run with
  | done v t => exact ⟨v, t, rfl, h⟩
  | raised f t => exact absurd hbacked h

theorem Made.trace_append {s t : State} {l : List (Dir × Word)} (h : Made s l t) :
    ∃ made, t.trace = s.trace ++ made :=
  h.trace.imp fun _ => And.left

/-- Where every address is backed the fetch is done: the opcode byte is read first, and decides the instruction. -/
theorem fetch_backed {s : State} (hbacked : Backed s.map) : ∃ (b aa bb : Byte) (rest : List BusTxn) (t : State),
    fetch s = .done (assemble b aa bb) t ∧ t.trace = s.trace ++ .read s.pc b :: rest ∧ t.map = s.map ∧
    ((lawAt s.map s.pc).onRead = .stored → b = s.byteAt s.pc) := by
  obtain ⟨b, t, hread, hmade, -⟩ := (memRead_makes s.pc s).exists_done hbacked
  have htrace : t.trace = s.trace ++ [.read s.pc b] := (memRead_trace s.pc s).of_done hread
  obtain ⟨l, hl⟩ := fetchOperands_makes (modeOf b) (t.setPc (t.pc + 1))
  obtain ⟨ops, u, hops, hmade', -⟩ := hl.exists_done (hmade.map ▸ hbacked)
  obtain ⟨rest, hrest⟩ := hmade'.trace_append
  refine ⟨b, ops.1, ops.2, rest, u, ?_, ?_, hmade'.map.trans hmade.map, fun hstored => ?_⟩
  · rw [fetch, hread, Run.bind_done, hops, Run.bind_done]
  · rw [hrest, State.setPc_trace, htrace, List.append_assoc]
    rfl
  · rw [memRead_stored s.pc s hstored] at hread
    exact (Run.done.inj hread).1.symm

/-- Settles O10: the fetch completes, an unsupported opcode answers its fault, and no other instruction faults. -/
theorem backedStepsFaultOnlyOnUnsupportedOpcodes : Obligations.BackedStepsFaultOnlyOnUnsupportedOpcodes := by
  intro s hs hbacked
  obtain ⟨-, -, hunsupported, -⟩ := unsupportedOpcodeFaults
  obtain ⟨b, aa, bb, rest, u, hfetch, htrace, hmap, hbyte⟩ := fetch_backed (s := s.beginRequest) hbacked
  have hstep : step s = exec (assemble b aa bb) u := by rw [step_eq s hs, hfetch, afterFetch]
  by_cases hb : b ∈ unsupportedOpcodes
  · rw [assemble_unsupported ((hunsupported b).2 hb), exec_unsupported hb] at hstep
    exact ⟨_, b, rest, hstep, htrace, hbyte, fun _ => rfl, fun hn => absurd hb hn⟩
  · obtain ⟨t, hexec, -⟩ := exec_isAnswered (opcode_assemble b aa bb) (s := u) rfl
    cases exec_ended hexec with
    | completed _ _ hanswer hmade =>
      obtain ⟨made, hmade⟩ := hmade.trace_append
      exact ⟨t, b, rest ++ made, hstep.trans hexec, by rw [hmade, htrace]; rfl, hbyte, fun h => absurd h hb,
        fun _ => ⟨_, hanswer⟩⟩
    | faulted _ hcause =>
      rw [operation_assemble, hunsupported, hmap] at hcause
      exact absurd (hcause hbacked) hb

/-! ## `Reset()` (spec/70_reset_and_hazards.md R240 to R242) -/

/-- Settles O53: both vector bytes are read from storage. -/
theorem resetLoadsTheParametersAndTheVector : Obligations.ResetLoadsTheParametersAndTheVector := by
  intro s hlo hhi
  refine ⟨_, toNat_joinBytes _ _, ?_⟩
  rw [resetPort, memReadWord_stored _ _ s.beginRequest.resetRegisters hlo hhi]
  rfl

/-- The vector byte that fails is the first, or it is the second and the first lies in storage. -/
theorem resetPort_error {s : State} (h : (lawAt s.map s.cfg.resetVector).onRead = .error ∨
    ((lawAt s.map s.cfg.resetVector).onRead = .stored ∧ (lawAt s.map (s.cfg.resetVector + 1)).onRead = .error)) :
    ∃ addr tr, (lawAt s.map addr).onRead = .error ∧ (addr = s.cfg.resetVector ∨ addr = s.cfg.resetVector + 1) ∧
      resetPort s = { s.resetRegisters with trace := tr, answer := .fault (.unbackedMemoryAccess addr .read) } := by
  obtain hlo | ⟨hlo, hhi⟩ := h
  · refine ⟨_, [.readError s.cfg.resetVector], hlo, .inl rfl, ?_⟩
    rw [resetPort, memReadWord, memRead_error _ s.beginRequest.resetRegisters hlo]
    rfl
  · refine ⟨_, [.read s.cfg.resetVector (s.byteAt s.cfg.resetVector), .readError (s.cfg.resetVector + 1)], hhi,
      .inr rfl, ?_⟩
    rw [resetPort, memReadWord, memRead_stored _ s.beginRequest.resetRegisters hlo, Run.bind_done,
      memRead_error _ (s.beginRequest.resetRegisters.note _) hhi]
    rfl

/-- Settles O54: PC alone is unspecified, so a step is refused, until PC is written. -/
theorem failedResetLeavesPcUnspecified : Obligations.FailedResetLeavesPcUnspecified := by
  intro s h
  obtain ⟨addr, tr, herror, haddr, hreset⟩ := resetPort_error h
  rw [hreset]
  refine ⟨addr, herror, haddr, rfl, rfl, rfl, rfl, rfl, rfl, rfl,
    (stepRefusedWhileARegisterIsUnspecified _).1.2 rfl, fun v => ?_⟩
  obtain ⟨t, ht, -⟩ := everyStepIsAnswered (debugWrite .pc v
    { s.resetRegisters with trace := tr, answer := .fault (.unbackedMemoryAccess addr .read) }) rfl
  exact ⟨t, ht⟩

/-! ### The state before a `Reset()` -/

/-- The state with another PC and another answer: what a state can bring into its `Reset()`. -/
def State.setPcAnswer (w : Word) (r : Answer) (s : State) : State := (s.setPc w).answered r

@[simp] theorem State.setPcAnswer_map (w : Word) (r : Answer) (s : State) : (s.setPcAnswer w r).map = s.map := rfl

theorem memRead_setPcAnswer (w : Word) (r : Answer) (addr : Word) (s : State) :
    memRead addr (s.setPcAnswer w r) = (memRead addr s).mapState (·.setPcAnswer w r) := by
  simp only [memRead, State.setPcAnswer_map]
  split
  · rfl
  · rfl
  · rfl
  · rw [apply_ite (Run.mapState (·.setPcAnswer w r))]
    rfl

theorem memReadWord_setPcAnswer (w : Word) (r : Answer) (lo hi : Word) (s : State) :
    memReadWord lo hi (s.setPcAnswer w r) = (memReadWord lo hi s).mapState (·.setPcAnswer w r) := by
  simp only [memReadWord, memRead_setPcAnswer]
  exact Run.mapState_bind fun l t => by
    rw [memRead_setPcAnswer]
    exact Run.mapState_bind fun _ _ => rfl

/-- Two states in one environment come to one state in `Reset()`, but for a PC and an answer that it does not write
itself. -/
theorem resetRegisters_eq_setPcAnswer {s t : State} (hcfg : s.cfg = t.cfg) (hmap : s.map = t.map)
    (hmem : s.mem = t.mem) (hcount : s.oracleCount = t.oracleCount) :
    t.beginRequest.resetRegisters = s.beginRequest.resetRegisters.setPcAnswer t.pc t.answer := by
  simp only [State.setPcAnswer, State.resetRegisters, State.beginRequest, State.setA, State.setX, State.setY,
    State.setSp, State.setP, State.setPc, State.setSpecified, State.answered, hcfg, hmap, hmem, hcount]

/-- So their `Reset()` answers alike, and a `Reset()` that answers `ok` has written PC. -/
theorem resetPort_eq_setPc {s t : State} (hcfg : s.cfg = t.cfg) (hmap : s.map = t.map) (hmem : s.mem = t.mem)
    (hcount : s.oracleCount = t.oracleCount) : ∃ w, resetPort t = (resetPort s).setPc w ∧
      ((resetPort s).answer = .resetOk → w = (resetPort s).pc) := by
  rw [resetPort, resetPort, resetRegisters_eq_setPcAnswer hcfg hmap hmem hcount, memReadWord_setPcAnswer, ← hcfg]
  cases memReadWord s.cfg.resetVector (s.cfg.resetVector + 1) s.beginRequest.resetRegisters with
  | done w u => exact ⟨w, rfl, fun _ => rfl⟩
  | raised f u => exact ⟨t.pc, rfl, nofun⟩

theorem BusOnly.mem {s t : State} (h : BusOnly s t) : t.mem = s.mem := by
  rw [h]

theorem resetPort_mem (s : State) : (resetPort s).mem = s.mem := by
  have hread := memReadWord_post s.cfg.resetVector (s.cfg.resetVector + 1) s.beginRequest.resetRegisters
  unfold resetPort
  split
  · next hr =>
    have hbus : BusOnly _ _ := hread.of_done hr
    exact hbus.mem
  · next hr =>
    have ⟨hbus, _⟩ := hread.of_raised hr
    exact hbus.mem

/-- Settles O55: the two ends of `Reset()` differ at most in the PC that a failed one leaves. -/
theorem resetDoesNotDependOnTheStateBefore : Obligations.ResetDoesNotDependOnTheStateBefore := by
  intro s t hcfg hmap hmem hcount
  obtain ⟨w, hreset, hpc⟩ := resetPort_eq_setPc hcfg hmap hmem hcount
  have hmemt := resetPort_mem t
  rw [hreset] at hmemt ⊢
  exact ⟨rfl, rfl, rfl, rfl, rfl, rfl, resetPort_mem s, hmemt, rfl, rfl, fun hok => (hpc hok).symm⟩

end Sys2Proof.Machine
